-- ==== Sys2Proof/Word.lean ====
section
/-! DEFINITION. The words and the index types of the KL-816: what software sees as a word is a bit vector, what
numbers one of a fixed set of units (a port, a client, a slot, a gate channel) is a `Fin`. -/

namespace Sys2Proof

/-- One byte of a frame (Section 11.1). -/
abbrev Byte := BitVec 8

/-- A resource name, 1-65535 (R1); the number 0 names no resource. -/
abbrev Name := BitVec 16

/-- A 16-bit number of a payload: a lease term, a recall grace, a wait limit, a dead time (Table 11-3). -/
abbrev Half := BitVec 16

/-- A fencing number, 1-4294967295; 0 means "none" (R115). -/
abbrev Gen := BitVec 32

/-- A lease-clock value: milliseconds modulo 2^40 (R58). -/
abbrev Clock := BitVec 40

/-- A host port, P0-P7. -/
abbrev Port := Fin 8

/-- A client context, C0-C15 (R19). -/
abbrev ClientId := Fin 16

/-- A lease slot of a client, S0-S7 (R29). -/
abbrev SlotId := Fin 8

/-- A gate channel, G0-G15 (R88). -/
abbrev ChannelId := Fin 16

/-- A branch of a bus switch, 0-7 (R88). -/
abbrev Branch := Fin 8

/-- A client's priority, 0-7, 0 the most urgent (R19). -/
abbrev Priority := Fin 8

end Sys2Proof
end

