-- ==== Sys2Proof/Config.lean ====
section
/-! DEFINITION. What the part fixes: identity codes (Table 11-9), fill bytes (R164), the weights and the limit of the error
score (R147), the directory's capacity (R4). The spec leaves no result open, so there is no free value here. -/

namespace Sys2Proof.Config

/-- Table 11-9. -/
def vendorCode : BitVec 16 := 0x0C4D#16
/-- Table 11-9. -/
def partCode : BitVec 16 := 0x0816#16
/-- Table 11-9. -/
def revision : Byte := 0x01#8

/-- R164: the slot was EMPTY at the frame's start, or the answer has ended. -/
def idleFill : Byte := 0xF0#8
/-- R164: the slot was WORKING at the frame's start. -/
def workingFill : Byte := 0xF1#8
/-- R164: the port was FAULTED at the frame's start. -/
def faultedFill : Byte := 0xF2#8

/-- R4: the most records the directory holds. -/
def directoryCapacity : Nat := 128

/-- R123: the most names on one page of DIRECTORY. -/
def pageSize : Nat := 12

/-- R147: what a bad frame adds to the error score of a port in UP. -/
def badFrameWeight : Nat := 8

/-- R147: the error score at which a port becomes FAULTED, and the highest it takes. -/
def faultScore : Nat := 32

/-- R51: the wait limit that arms no deadline (Table 3-1). -/
def noLimit : Half := 65535#16

end Sys2Proof.Config
end

