-- ==== Sys2Proof/Syntax.lean ====
section
/-! DEFINITION. The commands of the KL-816: one constructor of `Instr` for each row of spec/opcode_table.json. A request
command is the END of a good frame on a port, with every field that the frame's bits carried; an event command is the
moment at which its block takes the event. -/

namespace Sys2Proof

/-- The request kinds of Table 11-2. -/
inductive Kind where
  | poll | probe | linkReset
  | openClient | close
  | acquire | release | cancel | renew | renewAll
  | fetch | slotRead
  | check | query | directory
  | define | amend | retire | seed
  deriving DecidableEq, Repr

/-- What byte 1 and byte 2 of a request frame carry (Table 11-1): the client addressed, the four header flag bits
that no block examines but that the check byte covers (R156), and the sequence number. -/
structure Header where
  client : ClientId
  flags : BitVec 4
  seq : Byte
  deriving DecidableEq, Repr

/-- The payload of DEFINE (Table 11-3), each field as wide as it is sent. -/
structure DefineParams where
  name : Name
  rank : Byte
  shareLimit : Byte
  leaseTerm : Half
  recallGrace : Half
  gatePresent : Byte
  gateChannel : Byte
  deadTime : Half
  deriving DecidableEq, Repr

/-- The payload of AMEND (Table 11-3). -/
structure AmendParams where
  name : Name
  leaseTerm : Half
  recallGrace : Half
  shareLimit : Byte
  rank : Byte
  deriving DecidableEq, Repr

/-- A client-level request past the form check: its kind with the fields of its payload (Table 11-3). A numeric field
is carried whole and an enumerated field as the byte sent, since their checks belong to the kind's own rule (R158). -/
inductive Body where
  | openClient (branch priority flags : Byte)
  | close
  | acquire (name : Name) (mode : Byte) (limit : Half)
  | release (slot : Byte)
  | cancel (slot : Byte)
  | renew (slot : Byte)
  | renewAll
  | fetch
  | slotRead (slot : Byte)
  | check (name : Name) (generation : Gen)
  | query (name : Name)
  | directory (start : Name)
  | define (d : DefineParams)
  | amend (a : AmendParams)
  | retire (name : Name) (mode : Byte)
  | seed (value : Gen)
  deriving DecidableEq, Repr

/-- A client-level request as the port unit hands it to the client table (R145). -/
structure Request where
  header : Header
  body : Body
  deriving DecidableEq, Repr

/-- A frame that its port classes bad: the port, and the bits clocked in the frame, in their order. -/
structure RawFrame where
  port : Port
  bits : List Bool
  deriving DecidableEq, Repr

/-- What a POLL frame carries beside its kind (R152). -/
structure PollFrame where
  header : Header
  padding : List Byte
  deriving DecidableEq, Repr

/-- When the owner carries out a request that the port has taken: R145 makes the carrying out an event of its own, and
R36 lets the port's fault be taken before it. `atFrameEnd`: before the next command. `later`: when the command
ANSWER_PLACED of the port completes the processing; its screening then comes no later than the taking of the port's fault.
DESIGN CHOICE (log entry 1). -/
inductive Timing where
  | atFrameEnd
  | later
  deriving DecidableEq, Repr

/-- The commands, one constructor for each row of spec/opcode_table.json. -/
inductive Instr where
  /-- FRAME_START (R139): the port's frame line becomes active. -/
  | frameStart (p : Port)
  /-- BAD_FRAME (R142): a frame ends and is classed bad. -/
  | badFrame (f : RawFrame)
  /-- UNKNOWN_KIND (R157): a good frame ends whose kind code is unknown or whose payload length is not its kind's;
  `kind` is its byte 3. -/
  | unknownKind (p : Port) (h : Header) (kind : Byte) (payload : List Byte)
  /-- POLL (R152): a good POLL frame ends. -/
  | poll (p : Port) (f : PollFrame)
  /-- PROBE (R153). -/
  | probe (p : Port) (h : Header)
  /-- LINK_RESET (R150). -/
  | linkReset (p : Port) (h : Header)
  /-- OPEN (R22, R23, R131): kind OPEN with the takeover flag clear; `reserved` is bits 7-2 of the flags byte. -/
  | openClient (p : Port) (h : Header) (branch priority : Byte) (admin : Bool) (reserved : BitVec 6) (t : Timing)
  /-- TAKEOVER (R25, R133): kind OPEN with the takeover flag set. -/
  | takeover (p : Port) (h : Header) (branch priority : Byte) (admin : Bool) (reserved : BitVec 6) (t : Timing)
  /-- CLOSE (R26). -/
  | close (p : Port) (h : Header) (t : Timing)
  /-- ACQUIRE (R39 to R51). -/
  | acquire (p : Port) (h : Header) (name : Name) (mode : Byte) (limit : Half) (t : Timing)
  /-- RELEASE (R66 to R69). -/
  | release (p : Port) (h : Header) (slot : Byte) (t : Timing)
  /-- CANCEL (R52). -/
  | cancel (p : Port) (h : Header) (slot : Byte) (t : Timing)
  /-- RENEW (R62, R63). -/
  | renew (p : Port) (h : Header) (slot : Byte) (t : Timing)
  /-- RENEW_ALL (R64). -/
  | renewAll (p : Port) (h : Header) (t : Timing)
  /-- FETCH (R110). -/
  | fetch (p : Port) (h : Header) (t : Timing)
  /-- SLOT_READ (R112). -/
  | slotRead (p : Port) (h : Header) (slot : Byte) (t : Timing)
  /-- CHECK (R119). -/
  | check (p : Port) (h : Header) (name : Name) (generation : Gen) (t : Timing)
  /-- QUERY (R121). -/
  | query (p : Port) (h : Header) (name : Name) (t : Timing)
  /-- DIRECTORY (R123). -/
  | directory (p : Port) (h : Header) (start : Name) (t : Timing)
  /-- DEFINE (R7, R8). -/
  | define (p : Port) (h : Header) (d : DefineParams) (t : Timing)
  /-- AMEND (R9 to R11). -/
  | amend (p : Port) (h : Header) (a : AmendParams) (t : Timing)
  /-- RETIRE_GRACEFUL (R12, R13): kind RETIRE with any mode byte but 1; 0 is GRACEFUL and every other is refused. -/
  | retireGraceful (p : Port) (h : Header) (name : Name) (mode : Byte) (t : Timing)
  /-- RETIRE_IMMEDIATE (R12, R16): kind RETIRE with mode byte 1. -/
  | retireImmediate (p : Port) (h : Header) (name : Name) (t : Timing)
  /-- SEED (R117). -/
  | seed (p : Port) (h : Header) (value : Gen) (t : Timing)
  /-- ANSWER_PLACED (R145): processing of the port's taken request completes. -/
  | answerPlaced (p : Port)
  /-- PORT_FAULT (R35): the port's fault report is taken at the client table, after the screening of a request handed over
  before it (R145). -/
  | portFault (p : Port)
  /-- WAIT_DEADLINE (R53): the slot's raised wait deadline event is taken. -/
  | waitDeadline (c : ClientId) (i : SlotId)
  /-- EXPIRY (R70): the slot's raised lease deadline event is taken. -/
  | expiry (c : ClientId) (i : SlotId)
  /-- REVOCATION (R81): the slot's raised recall deadline event is taken. -/
  | revocation (c : ClientId) (i : SlotId)
  /-- SETTLE_END (R94, R95): the channel's settle timer counts `us` microseconds more, which ends the settle when its
  count reaches the dead time. -/
  | settleEnd (g : ChannelId) (us : Nat)
  /-- CHIP_RESET (R21). -/
  | chipReset
  /-- LEASE_CLOCK_TICK (R58, R59): one millisecond passes on the lease clock. -/
  | leaseClockTick
  /-- UNCLOCKED_FRAME (R138): the port's frame line becomes inactive and no bit was clocked. -/
  | unclockedFrame (p : Port)
  /-- END_OF_RESET (R137). -/
  | endOfReset
  deriving DecidableEq, Repr

end Sys2Proof
end

