-- ==== Sys2Proof/Machine/Bytes.lean ====
section
/-! DEFINITION. Bytes of frames: most significant byte first (Section 11.1), the CRC-8 (R165), the kind codes and the payload
lengths (Table 11-2), and the bytes of a request (Tables 11-1 and 11-3), from which its check byte follows. -/

namespace Sys2Proof.Machine

/-- The two bytes of a 16-bit field, most significant first. -/
def bytes16 (w : BitVec 16) : List Byte := [w.extractLsb' 8 8, w.extractLsb' 0 8]

/-- The four bytes of a generation, most significant first. -/
def bytes32 (w : BitVec 32) : List Byte :=
  [w.extractLsb' 24 8, w.extractLsb' 16 8, w.extractLsb' 8 8, w.extractLsb' 0 8]

/-- The five bytes of a lease-clock value, most significant first. -/
def bytes40 (w : BitVec 40) : List Byte :=
  [w.extractLsb' 32 8, w.extractLsb' 24 8, w.extractLsb' 16 8, w.extractLsb' 8 8, w.extractLsb' 0 8]

/-- The 16-bit field that two received bytes carry. -/
def word16 (a b : Byte) : BitVec 16 := a ++ b

/-- The 32-bit field that four received bytes carry. -/
def word32 (a b c d : Byte) : BitVec 32 := ((a ++ b) ++ c) ++ d

/-- One shift of the check register (R165): toward the most significant bit, and 0x07 when the bit shifted out is 1. -/
def crcShift (r : Byte) : Byte :=
  if r.msb then (r <<< 1) ^^^ 0x07#8 else r <<< 1

/-- One covered byte taken into the check register (R165): exclusive-or, then eight shifts. -/
def crcByte (r b : Byte) : Byte :=
  crcShift (crcShift (crcShift (crcShift (crcShift (crcShift (crcShift (crcShift (r ^^^ b))))))))

/-- The check byte of a byte string (R165): initial register 0, first byte first, no final inversion. -/
def crc8 (bs : List Byte) : Byte := bs.foldl crcByte 0#8

/-- The kind codes of Table 11-2. -/
def kindCode : Kind → Byte
  | .poll => 0x01#8
  | .probe => 0x02#8
  | .linkReset => 0x03#8
  | .openClient => 0x10#8
  | .close => 0x11#8
  | .acquire => 0x20#8
  | .release => 0x21#8
  | .cancel => 0x22#8
  | .renew => 0x23#8
  | .renewAll => 0x24#8
  | .fetch => 0x28#8
  | .slotRead => 0x29#8
  | .check => 0x30#8
  | .query => 0x31#8
  | .directory => 0x32#8
  | .define => 0x40#8
  | .amend => 0x41#8
  | .retire => 0x42#8
  | .seed => 0x43#8

/-- The kinds in the order of Table 11-2. -/
def allKinds : List Kind :=
  [.poll, .probe, .linkReset, .openClient, .close, .acquire, .release, .cancel, .renew, .renewAll, .fetch,
   .slotRead, .check, .query, .directory, .define, .amend, .retire, .seed]

/-- The kind a kind byte names, none for a code absent from Table 11-2. -/
def kindOfCode (b : Byte) : Option Kind := allKinds.find? (fun k => kindCode k == b)

/-- The payload length a kind requires (Table 11-2); none for POLL, which takes any length of 0-59. -/
def kindPayloadLength : Kind → Option Nat
  | .poll => none
  | .probe => some 0
  | .linkReset => some 0
  | .openClient => some 3
  | .close => some 0
  | .acquire => some 5
  | .release => some 1
  | .cancel => some 1
  | .renew => some 1
  | .renewAll => some 0
  | .fetch => some 0
  | .slotRead => some 1
  | .check => some 6
  | .query => some 2
  | .directory => some 2
  | .define => some 12
  | .amend => some 8
  | .retire => some 3
  | .seed => some 4

/-- The form check (R157): is a payload of `n` bytes right for the kind? -/
def formRight (k : Kind) (n : Nat) : Bool :=
  match kindPayloadLength k with
  | none => decide (n ≤ 59)
  | some m => n == m

/-- Is a frame with this kind byte and payload length one that R157 answers BAD_REQUEST? -/
def malformed (kind : Byte) (n : Nat) : Bool :=
  match kindOfCode kind with
  | none => true
  | some k => !formRight k n

/-- The kind of a client-level request. -/
def bodyKind : Body → Kind
  | .openClient _ _ _ => .openClient
  | .close => .close
  | .acquire _ _ _ => .acquire
  | .release _ => .release
  | .cancel _ => .cancel
  | .renew _ => .renew
  | .renewAll => .renewAll
  | .fetch => .fetch
  | .slotRead _ => .slotRead
  | .check _ _ => .check
  | .query _ => .query
  | .directory _ => .directory
  | .define _ => .define
  | .amend _ => .amend
  | .retire _ _ => .retire
  | .seed _ => .seed

/-- The flags byte of OPEN (Table 11-3): bit 0 admin, bit 1 takeover, bits 7-2 not examined. -/
def openFlags (admin takeover : Bool) (reserved : BitVec 6) : Byte :=
  reserved ++ (BitVec.ofBool takeover ++ BitVec.ofBool admin)

/-- The admin bit of OPEN's flags byte. -/
def flagsAdmin (f : Byte) : Bool := f.getLsbD 0

/-- The takeover bit of OPEN's flags byte. -/
def flagsTakeover (f : Byte) : Bool := f.getLsbD 1

/-- The payload bytes of a client-level request (Table 11-3). -/
def bodyPayload : Body → List Byte
  | .openClient branch priority flags => [branch, priority, flags]
  | .close => []
  | .acquire name mode limit => bytes16 name ++ [mode] ++ bytes16 limit
  | .release slot => [slot]
  | .cancel slot => [slot]
  | .renew slot => [slot]
  | .renewAll => []
  | .fetch => []
  | .slotRead slot => [slot]
  | .check name generation => bytes16 name ++ bytes32 generation
  | .query name => bytes16 name
  | .directory start => bytes16 start
  | .define d =>
    bytes16 d.name ++ [d.rank, d.shareLimit] ++ bytes16 d.leaseTerm ++ bytes16 d.recallGrace ++
      [d.gatePresent, d.gateChannel] ++ bytes16 d.deadTime
  | .amend a =>
    bytes16 a.name ++ bytes16 a.leaseTerm ++ bytes16 a.recallGrace ++ [a.shareLimit, a.rank]
  | .retire name mode => bytes16 name ++ [mode]
  | .seed value => bytes32 value

/-- Byte 1 of a request frame (Table 11-1): header flags in bits 7-4, the client in bits 3-0. -/
def clientByte (h : Header) : Byte := h.flags ++ BitVec.ofNat 4 h.client.val

/-- The bytes of a frame that its check byte covers (Table 11-1). -/
def coveredBytes (client seq kind : Byte) (payload : List Byte) : List Byte :=
  [BitVec.ofNat 8 (payload.length + 5), client, seq, kind] ++ payload

/-- A whole request frame: the covered bytes and their check (Table 11-1, R165). -/
def frameBytes (client seq kind : Byte) (payload : List Byte) : List Byte :=
  coveredBytes client seq kind payload ++ [crc8 (coveredBytes client seq kind payload)]

/-- The frame with this header, kind byte and payload. -/
def headedBytes (h : Header) (kind : Byte) (payload : List Byte) : List Byte :=
  frameBytes (clientByte h) h.seq kind payload

/-- The frame of a client-level request. -/
def requestBytes (r : Request) : List Byte := headedBytes r.header (kindCode (bodyKind r.body)) (bodyPayload r.body)

/-- The check byte the request carried as its last byte, which the sequence cache keeps (R125, R156). -/
def requestCheck (r : Request) : Byte :=
  crc8 (coveredBytes (clientByte r.header) r.header.seq (kindCode (bodyKind r.body)) (bodyPayload r.body))

/-- The length of the request's frame in bytes: its payload length and 5 (R156). -/
def requestLength (r : Request) : Nat := (bodyPayload r.body).length + 5

end Sys2Proof.Machine
end

