-- ==== Sys2Proof/Machine/State.lean ====
section
/-! DEFINITION. The state of the KL-816: the resource directory, the client table, the gate controller, the port units, the
lease clock, and the model's queue of waiting commands. Plain data. What the spec defines as a function of these (a
slot's changed mark, the attention lines, the gate output lines) is computed in Flags.lean (log entry 13). -/

namespace Sys2Proof.Machine

/-- No command stops the machine: the spec defines each in every state, by a status, a drop or no effect (R32, R161).
So there is no fault. -/
inductive Fault where
  deriving DecidableEq, Repr

/-- Refusals. -/
inductive Refusal where
  /-- Raised by `exec` alone, for a command of the table that has no meaning yet. Safe: the run stops there. No arm
  raises it, since every command has its meaning. -/
  | notModelled (mnemonic : String)
  deriving DecidableEq, Repr

/-- The two modes of a lease or a wait (Table 3-1). -/
inductive Mode where
  | exclusive
  | shared
  deriving DecidableEq, Repr

/-- Why a lease or a wait ended by the controller's own action (Table 2-3). -/
inductive EndCause where
  | expired
  | revoked
  | retired
  | timeout
  | link
  deriving DecidableEq, Repr

/-- An armed deadline (R30, R59): the lease-clock value written in the slot, and whether the clock has reached it, so that
the deadline unit's event for it is raised and not yet taken. Disarming or rewriting the deadline takes the raised
event with it, since an event for a value no longer armed does nothing (R59). -/
structure Deadline where
  value : Clock
  raised : Bool
  deriving DecidableEq, Repr

/-- A lease slot, each state with the fields that Table 2-3 gives it, so that a field absent in a state has no value. -/
inductive Slot where
  | free
  | waiting (name : Name) (mode : Mode) (wait : Option Deadline)
  | gating (name : Name) (mode : Mode) (generation : Gen)
  | held (name : Name) (mode : Mode) (generation : Gen) (lease : Deadline)
  | recalled (name : Name) (mode : Mode) (generation : Gen) (lease recallBy : Deadline)
  | ended (name : Name) (mode : Mode) (generation : Option Gen) (cause : EndCause)
  deriving DecidableEq, Repr

/-- The two classes of a change-queue entry (R104). -/
inductive EntryClass where
  | urgent
  | ordinary
  deriving DecidableEq, Repr

/-- An entry of a change queue (R104). -/
structure Entry where
  slot : SlotId
  cls : EntryClass
  deriving DecidableEq, Repr

/-- The status codes of Table 11-6. -/
inductive Status where
  | ok | granted | pending | queued | unavailable | empty | late | valid | stale
  | badRequest | badParam | notOpen | badClient | inUse | notAdmin | seqError | seqConflict
  | noResource | retiring | duplicate | dirFull | channelBusy | badMode | order | already
  | slotsFull | waitBusy | notHeld | notWaiting | resourceBusy | badState
  deriving DecidableEq, Repr

/-- The six states of a slot as answers report them (Table 11-7). -/
inductive SlotTag where
  | free | waiting | gating | held | recalled | ended
  deriving DecidableEq, Repr

/-- The slot view of R109: the fields that Table 7-3 gives the slot's state, the others absent. -/
structure SlotView where
  index : SlotId
  state : SlotTag
  changed : Bool
  name : Option Name
  mode : Option Mode
  generation : Option Gen
  lease : Option Clock
  recallBy : Option Clock
  cause : Option EndCause
  deriving DecidableEq, Repr

/-- One holder item of the resource view (Table 8-1). -/
structure HolderView where
  client : ClientId
  slot : SlotId
  mode : Mode
  generation : Gen
  state : SlotTag
  deriving DecidableEq, Repr

/-- ACTIVE or DRAINING (Table 1-1). -/
inductive RecordState where
  | active
  | draining
  deriving DecidableEq, Repr

/-- The resource view of R121 (Table 8-1); the holder count is the number of holder items. -/
structure ResourceView where
  name : Name
  state : RecordState
  rank : Fin 16
  shareLimit : Nat
  leaseTerm : Half
  recallGrace : Half
  gate : Option (ChannelId × Half)
  holders : List HolderView
  waiterCount : Nat
  headPriority : Option Priority
  deriving DecidableEq, Repr

/-- The PROBE answer's content (Table 10-3) beside the fixed codes of the part. -/
structure ProbeView where
  clock : Clock
  faulted : List Bool
  score : Nat
  badFrames : Half
  overruns : Half
  deriving DecidableEq, Repr

/-- The outcome of an accepted RETIRE (R12). -/
inductive RetireOutcome where
  | removed
  | draining
  deriving DecidableEq, Repr

/-- What the payload of an answer reports (R160, Table 11-5). -/
inductive Payload where
  /-- No payload. -/
  | nothing
  /-- A freed count, a count renewed, or a count of clients returned to OPEN. -/
  | count (n : Nat)
  /-- GRANTED. -/
  | granted (slot : SlotId) (generation : Gen) (lease : Clock)
  /-- PENDING in answer to ACQUIRE. -/
  | pending (slot : SlotId) (generation : Gen) (channel : ChannelId) (deadTime : Half)
  /-- QUEUED. -/
  | queued (slot : SlotId) (position : Nat)
  /-- LATE. -/
  | late (cause : EndCause)
  /-- OK in answer to RENEW. -/
  | renewed (state : SlotTag) (lease : Clock)
  /-- OK in answer to SLOT_READ. -/
  | slotView (v : SlotView)
  /-- OK in answer to FETCH. -/
  | fetched (v : SlotView) (remaining : Nat)
  /-- VALID. -/
  | valid (client : ClientId) (slot : SlotId) (mode : Mode)
  /-- OK in answer to QUERY. -/
  | resourceView (v : ResourceView)
  /-- OK in answer to DIRECTORY. -/
  | page (more : Bool) (names : List Name)
  /-- OK in answer to RETIRE. -/
  | retired (outcome : RetireOutcome) (ended : Nat)
  /-- OK in answer to PROBE. -/
  | probe (v : ProbeView)
  deriving DecidableEq, Repr

/-- An answer (Table 11-4); its bytes follow from it (`answerBytes`). -/
structure Answer where
  status : Status
  seqEcho : Byte
  kindEcho : Byte
  replay : Bool
  payload : Payload
  deriving DecidableEq, Repr

/-- A present sequence cache (R125). -/
structure Cache where
  seq : Byte
  kind : Kind
  check : Byte
  answer : Answer
  deriving DecidableEq, Repr

/-- The states of a client (Table 2-2). -/
inductive ClientState where
  | closed
  | opened
  | suspect
  deriving DecidableEq, Repr

/-- A client context (Table 2-1). -/
structure Client where
  state : ClientState
  port : Option Port
  branch : Branch
  priority : Priority
  admin : Bool
  cache : Option Cache
  slots : Vector Slot 8
  queue : List Entry
  deriving DecidableEq, Repr

/-- An entry of a holder list (R2). -/
structure Holder where
  client : ClientId
  slot : SlotId
  mode : Mode
  generation : Gen
  deriving DecidableEq, Repr

/-- An entry of a wait queue (R3). -/
structure Waiter where
  client : ClientId
  slot : SlotId
  mode : Mode
  priority : Priority
  deriving DecidableEq, Repr

/-- A resource record (Table 1-1). -/
structure Record where
  name : Name
  state : RecordState
  rank : Fin 16
  shareLimit : Nat
  leaseTerm : Half
  recallGrace : Half
  gate : Option ChannelId
  holders : List Holder
  waiters : List Waiter
  deriving DecidableEq, Repr

/-- The state of a gate channel with the fields present in it (Table 6-1): the settle timer's count of microseconds in
SETTLING, where alone it runs, and the connected branch in CONNECTED. -/
inductive GateState where
  | disconnected
  | settling (elapsed : Nat)
  | connected (branch : Branch)
  deriving DecidableEq, Repr

/-- A gate channel (Table 6-1). -/
structure Channel where
  binding : Option Name
  deadTime : Option Half
  state : GateState
  deriving DecidableEq, Repr

/-- The link states of a port (Table 10-1). -/
inductive LinkState where
  | up
  | faulted
  deriving DecidableEq, Repr

/-- How the screening of a request passes it on to be carried out (R126). -/
inductive Passage where
  /-- An OPEN for a CLOSED client (R131). -/
  | plainOpen
  /-- Classed new (R127). -/
  | fresh
  deriving DecidableEq, Repr

/-- A request in processing while the response slot is WORKING (R145). -/
inductive Work where
  /-- Handed to the client table and not yet screened. -/
  | handed (r : Request)
  /-- Screened, which passed it on, and not yet carried out. -/
  | screened (r : Request) (k : Passage)
  /-- Carried out; its answer is not yet placed. -/
  | done (a : Answer)
  deriving DecidableEq, Repr

/-- The response slot (R141). -/
inductive ResponseSlot where
  | empty
  | working (w : Work)
  | ready (a : Answer)
  deriving DecidableEq, Repr

/-- The outgoing content of a frame, fixed at its start (R139). -/
inductive Outgoing where
  | faultedFill
  | workingFill
  | idleFill
  | answer (a : Answer)
  deriving DecidableEq, Repr

/-- What a frame in progress has received so far (R138, Table 10-1): the first 64 complete bytes in their order, the count
of every complete byte, and the bits of the byte that is not complete yet, first bit first. -/
structure Reception where
  bytes : List Byte
  count : Nat
  bits : List Bool
  deriving DecidableEq, Repr

/-- A frame in progress (Table 10-1): its outgoing content, fixed at its start, and what it has received so far. -/
structure Frame where
  outgoing : Outgoing
  received : Reception
  deriving DecidableEq, Repr

/-- A port unit (Table 10-1). `frame` is the frame in progress, none between frames; `faultReport` says that the
port has reported its fault and the client table has not yet taken the report (R145, R148). The attention line of the
port is `State.attention`. -/
structure PortUnit where
  link : LinkState
  score : Nat
  slot : ResponseSlot
  badFrames : Half
  overruns : Half
  frame : Option Frame
  faultReport : Bool
  deriving DecidableEq, Repr

/-- The whole machine. `pending` is the model's own: the commands waiting, first in, first out (log entry 4).
`inReset` holds from a chip reset to its end (R137). -/
structure State where
  pending : List Instr
  clock : Clock
  inReset : Bool
  generation : Gen
  records : List Record
  clients : Vector Client 16
  ports : Vector PortUnit 8
  channels : Vector Channel 16
  deriving DecidableEq, Repr

/-- A client context after chip reset (R21). -/
def resetClient : Client :=
  { state := .closed, port := none, branch := 0, priority := 0, admin := false, cache := none
    slots := Vector.replicate 8 .free, queue := [] }

/-- A port unit after chip reset (R137). -/
def resetPort : PortUnit :=
  { link := .up, score := 0, slot := .empty, badFrames := 0#16, overruns := 0#16, frame := none, faultReport := false }

/-- A gate channel after chip reset (R103). -/
def resetChannel : Channel := { binding := none, deadTime := none, state := .disconnected }

/-- The machine right after reset: R5, R21, R58, R103, R115, R137. The reset has ended, so that frames are recognised and
the lease clock counts; CHIP_RESET leads to the same state with `inReset` set. DESIGN CHOICE (log entry 15). -/
def State.reset : State :=
  { pending := [], clock := 0#40, inReset := false, generation := 0#32, records := []
    clients := Vector.replicate 16 resetClient
    ports := Vector.replicate 8 resetPort
    channels := Vector.replicate 16 resetChannel }

end Sys2Proof.Machine
end

