-- ==== Sys2Proof/Machine/Reception.lean ====
section
/-! DEFINITION. The receiving side of a frame, bit by bit (R138), and its class at its end (R140). Every byte travels most
significant bit first. -/

namespace Sys2Proof.Machine

/-- The bits of a byte as the serial lines carry them, the most significant first (Section 10.2). -/
def byteBits (b : Byte) : List Bool :=
  [b.getLsbD 7, b.getLsbD 6, b.getLsbD 5, b.getLsbD 4, b.getLsbD 3, b.getLsbD 2, b.getLsbD 1, b.getLsbD 0]

/-- The bits of some bytes, the first byte first. -/
def bitsOf (bs : List Byte) : List Bool := bs.flatMap byteBits

/-- The byte that eight bits assemble to, the first its most significant (R138). -/
def byteOfBits (bits : List Bool) : Byte :=
  bits.foldl (fun acc b => (acc <<< 1) ||| (if b then 1#8 else 0#8)) 0#8

/-- Nothing received: the frame has just begun. -/
def noReception : Reception := { bytes := [], count := 0, bits := [] }

/-- The most bytes of a frame that the port keeps (R138). -/
def keptBytes : Nat := 64

/-- One bit received on the host's clock (R138): the eighth bit completes a byte, which is counted, and kept when it is one of
the first 64. -/
def Reception.clock (r : Reception) (b : Bool) : Reception :=
  if r.bits.length < 7 then { r with bits := r.bits ++ [b] }
  else
    { bytes := if r.bytes.length < keptBytes then r.bytes ++ [byteOfBits (r.bits ++ [b])] else r.bytes
      count := r.count + 1
      bits := [] }

/-- What a frame has received when these bits were clocked in it, in their order (R138). -/
def receive (bits : List Bool) : Reception := bits.foldl Reception.clock noReception

/-- R140: is a frame good that ends with this received? It is bad when it ended with a partial byte, when its length byte is
below 5 or above 64, when the number of complete bytes is not the length byte, or when the check over the whole frame
is not 0 (R165). -/
def Reception.good (r : Reception) : Bool :=
  match r.bytes with
  | [] => false
  | len :: _ =>
    r.bits == [] && decide (5 ≤ len.toNat) && decide (len.toNat ≤ 64) && r.count == len.toNat && crc8 r.bytes == 0#8

end Sys2Proof.Machine
end

