-- ==== Sys2Proof/WellFormed.lean ====
section
/-! DEFINITION. The well-formed commands: what the types of `Instr` leave too wide. A frame's length byte is 5-64, so a
payload has at most 59 bytes (Table 11-1); BAD_FRAME stands for a frame that R140 classes bad; UNKNOWN_KIND stands for a frame that the form check turns away (R157);
RETIRE with mode byte 1 is RETIRE_IMMEDIATE (R12). -/

namespace Sys2Proof

/-- Is the command one that a frame or an event can be? -/
def Instr.wf : Instr → Bool
  | .badFrame f => f.bits != [] && !(Machine.receive f.bits).good
  | .unknownKind _ _ kind payload => decide (payload.length ≤ 59) && Machine.malformed kind payload.length
  | .poll _ f => decide (f.padding.length ≤ 59)
  | .retireGraceful _ _ _ mode _ => mode != 1#8
  | .frameStart _ | .probe _ _ | .linkReset _ _ | .openClient _ _ _ _ _ _ _
  | .takeover _ _ _ _ _ _ _ | .close _ _ _ | .acquire _ _ _ _ _ _ | .release _ _ _ _ | .cancel _ _ _ _
  | .renew _ _ _ _ | .renewAll _ _ _ | .fetch _ _ _ | .slotRead _ _ _ _ | .check _ _ _ _ _ | .query _ _ _ _
  | .directory _ _ _ _ | .define _ _ _ _ | .amend _ _ _ _ | .retireImmediate _ _ _ _ | .seed _ _ _ _
  | .answerPlaced _ | .portFault _ | .waitDeadline _ _ | .expiry _ _ | .revocation _ _ | .settleEnd _ _
  | .chipReset | .leaseClockTick | .unclockedFrame _ | .endOfReset => true

end Sys2Proof
end

