-- ==== Sys2Proof/Decode.lean ====
section
/-! DEFINITION. From bits to commands. The opcode table gives no row any bits, so `decodeTableWord` answers none. What the
part does decode are the frames clocked on its ports: `decodeFrame` assembles and classes a frame (R138, R140) and reads
its request (R156, R157, R158); `frameBits`, after it, writes the bits of a frame-end command from the same tables. -/

namespace Sys2Proof

/-- The command a word spells by the bits of spec/opcode_table.json. No row of the table has bits. -/
def decodeTableWord (_nbits _w : Nat) : Option Instr := none

namespace Machine

/-- The header that byte 1 and byte 2 of a request frame carry (Table 11-1). -/
def headerOf (client seq : Byte) : Header :=
  { client := Fin.ofNat 16 (client.extractLsb' 0 4).toNat
    flags := client.extractLsb' 4 4
    seq := seq }

/-- The request a good frame carries past the form check, read by the positions of Table 11-3. None for the port-level
kinds and for a payload whose length is not its kind's. -/
def bodyOf (k : Kind) (payload : List Byte) : Option Body :=
  match k, payload with
  | .openClient, [branch, priority, flags] => some (.openClient branch priority flags)
  | .close, [] => some .close
  | .acquire, [a, b, mode, c, d] => some (.acquire (word16 a b) mode (word16 c d))
  | .release, [slot] => some (.release slot)
  | .cancel, [slot] => some (.cancel slot)
  | .renew, [slot] => some (.renew slot)
  | .renewAll, [] => some .renewAll
  | .fetch, [] => some .fetch
  | .slotRead, [slot] => some (.slotRead slot)
  | .check, [a, b, c, d, e, f] => some (.check (word16 a b) (word32 c d e f))
  | .query, [a, b] => some (.query (word16 a b))
  | .directory, [a, b] => some (.directory (word16 a b))
  | .define, [a, b, rank, limit, c, d, e, f, gate, channel, g, h] =>
    some (.define ⟨word16 a b, rank, limit, word16 c d, word16 e f, gate, channel, word16 g h⟩)
  | .amend, [a, b, c, d, e, f, limit, rank] =>
    some (.amend ⟨word16 a b, word16 c d, word16 e f, limit, rank⟩)
  | .retire, [a, b, mode] => some (.retire (word16 a b) mode)
  | .seed, [a, b, c, d] => some (.seed (word32 a b c d))
  | _, _ => none

/-- The command that stands for a client-level request on a port: OPEN is the row TAKEOVER when its takeover flag is
set, RETIRE the row RETIRE_IMMEDIATE when its mode byte is 1. -/
def commandOf (p : Port) (t : Timing) (h : Header) : Body → Instr
  | .openClient branch priority flags =>
    if flagsTakeover flags then
      .takeover p h branch priority (flagsAdmin flags) (flags.extractLsb' 2 6) t
    else
      .openClient p h branch priority (flagsAdmin flags) (flags.extractLsb' 2 6) t
  | .close => .close p h t
  | .acquire name mode limit => .acquire p h name mode limit t
  | .release slot => .release p h slot t
  | .cancel slot => .cancel p h slot t
  | .renew slot => .renew p h slot t
  | .renewAll => .renewAll p h t
  | .fetch => .fetch p h t
  | .slotRead slot => .slotRead p h slot t
  | .check name generation => .check p h name generation t
  | .query name => .query p h name t
  | .directory start => .directory p h start t
  | .define d => .define p h d t
  | .amend a => .amend p h a t
  | .retire name mode =>
    if mode = 1#8 then .retireImmediate p h name t else .retireGraceful p h name mode t
  | .seed value => .seed p h value t

/-- The command of a good frame, from its bytes 1, 2 and 3 and its payload (R156, R157). -/
def decodeGood (p : Port) (t : Timing) (client seq kind : Byte) (payload : List Byte) : Instr :=
  match kindOfCode kind with
  | none => .unknownKind p (headerOf client seq) kind payload
  | some .poll => .poll p ⟨headerOf client seq, payload⟩
  | some .probe => if payload = [] then .probe p (headerOf client seq) else .unknownKind p (headerOf client seq) kind payload
  | some .linkReset => if payload = [] then .linkReset p (headerOf client seq) else .unknownKind p (headerOf client seq) kind payload
  | some k =>
    match bodyOf k payload with
    | some body => commandOf p t (headerOf client seq) body
    | none => .unknownKind p (headerOf client seq) kind payload

/-- The command that the end of a frame on port `p` is, from the bits clocked in it: UNCLOCKED_FRAME when there were none
(R138), BAD_FRAME when it is classed bad (R140), else the command of its request. `t` says when a client-level request
is carried out. -/
def decodeFrame (p : Port) (t : Timing) (bits : List Bool) : Instr :=
  if bits = [] then .unclockedFrame p
  else if (receive bits).good then
    match (receive bits).bytes with
    | _ :: client :: seq :: kind :: rest => decodeGood p t client seq kind rest.dropLast
    | _ => .badFrame ⟨p, bits⟩
  else .badFrame ⟨p, bits⟩

/-- The request of a client-level request command. -/
def instrRequest : Instr → Option Request
  | .openClient _ h branch priority admin reserved _ =>
    some ⟨h, .openClient branch priority (openFlags admin false reserved)⟩
  | .takeover _ h branch priority admin reserved _ =>
    some ⟨h, .openClient branch priority (openFlags admin true reserved)⟩
  | .close _ h _ => some ⟨h, .close⟩
  | .acquire _ h name mode limit _ => some ⟨h, .acquire name mode limit⟩
  | .release _ h slot _ => some ⟨h, .release slot⟩
  | .cancel _ h slot _ => some ⟨h, .cancel slot⟩
  | .renew _ h slot _ => some ⟨h, .renew slot⟩
  | .renewAll _ h _ => some ⟨h, .renewAll⟩
  | .fetch _ h _ => some ⟨h, .fetch⟩
  | .slotRead _ h slot _ => some ⟨h, .slotRead slot⟩
  | .check _ h name generation _ => some ⟨h, .check name generation⟩
  | .query _ h name _ => some ⟨h, .query name⟩
  | .directory _ h start _ => some ⟨h, .directory start⟩
  | .define _ h d _ => some ⟨h, .define d⟩
  | .amend _ h a _ => some ⟨h, .amend a⟩
  | .retireGraceful _ h name mode _ => some ⟨h, .retire name mode⟩
  | .retireImmediate _ h name _ => some ⟨h, .retire name 1#8⟩
  | .seed _ h value _ => some ⟨h, .seed value⟩
  | .frameStart _ | .badFrame _ | .unknownKind _ _ _ _ | .poll _ _ | .probe _ _ | .linkReset _ _
  | .answerPlaced _ | .portFault _ | .waitDeadline _ _ | .expiry _ _ | .revocation _ _ | .settleEnd _ _
  | .chipReset | .leaseClockTick | .unclockedFrame _ | .endOfReset => none

/-- The port and the timing of a client-level request command, the port of every other frame-end command that carries a
request. -/
def instrPort : Instr → Option (Port × Timing)
  | .openClient p _ _ _ _ _ t | .takeover p _ _ _ _ _ t => some (p, t)
  | .close p _ t | .renewAll p _ t | .fetch p _ t => some (p, t)
  | .acquire p _ _ _ _ t => some (p, t)
  | .release p _ _ t | .cancel p _ _ t | .renew p _ _ t | .slotRead p _ _ t => some (p, t)
  | .check p _ _ _ t | .retireGraceful p _ _ _ t => some (p, t)
  | .query p _ _ t | .directory p _ _ t | .define p _ _ t | .amend p _ _ t | .retireImmediate p _ _ t
  | .seed p _ _ t => some (p, t)
  | .unknownKind p _ _ _ | .poll p _ | .probe p _ | .linkReset p _ => some (p, .atFrameEnd)
  | .frameStart _ | .badFrame _ | .answerPlaced _ | .portFault _ | .waitDeadline _ _ | .expiry _ _
  | .revocation _ _ | .settleEnd _ _ | .chipReset | .leaseClockTick | .unclockedFrame _ | .endOfReset => none

/-- The bytes of the good frame whose end a command is (Tables 11-1, 11-2, 11-3), none for a command that is no good frame. -/
def encodeFrame (i : Instr) : Option (List Byte) :=
  match i with
  | .unknownKind _ h kind payload => some (headedBytes h kind payload)
  | .poll _ f => some (headedBytes f.header (kindCode .poll) f.padding)
  | .probe _ h => some (headedBytes h (kindCode .probe) [])
  | .linkReset _ h => some (headedBytes h (kindCode .linkReset) [])
  | i => (instrRequest i).map requestBytes

/-- The bits clocked in the frame whose end a command is, none for a command that is no frame's end. -/
def frameBits (i : Instr) : Option (List Bool) :=
  match i with
  | .badFrame f => some f.bits
  | .unclockedFrame _ => some []
  | i => (encodeFrame i).map bitsOf

end Machine

end Sys2Proof
end

