-- ==== Sys2Proof/Machine/Ops.lean ====
section
/-! DEFINITION. The named operations over the tables: reading and writing a client, slot, port, channel or record; posting to
a change queue (R105); the gate controller's reports (R91, R92); the drawing of a generation (R116); the grant pass (R45, R46);
recall evaluation (R74-R80); the follow-up of a change to a list (R47) and the removal of a record (R17); the ends of a
wait and of a lease that several commands share. -/

namespace Sys2Proof.Machine

/-! ### Reading and writing the tables -/

/-- A client context. -/
def State.client (s : State) (c : ClientId) : Client := s.clients[c]

/-- The state with one client context replaced. -/
def State.setClient (s : State) (c : ClientId) (x : Client) : State :=
  { s with clients := s.clients.set c x }

/-- A lease slot of a client. -/
def State.slot (s : State) (c : ClientId) (i : SlotId) : Slot := (s.client c).slots[i]

/-- The state with one lease slot replaced. -/
def State.setSlot (s : State) (c : ClientId) (i : SlotId) (x : Slot) : State :=
  s.setClient c { s.client c with slots := (s.client c).slots.set i x }

/-- The state with a client's change queue replaced. -/
def State.setQueue (s : State) (c : ClientId) (q : List Entry) : State :=
  s.setClient c { s.client c with queue := q }

/-- A port unit. -/
def State.port (s : State) (p : Port) : PortUnit := s.ports[p]

/-- The state with one port unit replaced. -/
def State.setPort (s : State) (p : Port) (x : PortUnit) : State :=
  { s with ports := s.ports.set p x }

/-- A gate channel. -/
def State.channel (s : State) (g : ChannelId) : Channel := s.channels[g]

/-- The state with one gate channel replaced. -/
def State.setChannel (s : State) (g : ChannelId) (x : Channel) : State :=
  { s with channels := s.channels.set g x }

/-- The record of a name, if the directory holds one (R4). -/
def State.find (s : State) (n : Name) : Option Record := s.records.find? (fun r => r.name == n)

/-- The state with the record of a name changed by `f`. -/
def State.updateRecord (s : State) (n : Name) (f : Record → Record) : State :=
  { s with records := s.records.map (fun r => if r.name = n then f r else r) }

/-- A directory with a record put at its place in ascending order of name (R4, R8). -/
def insertRecord (r : Record) : List Record → List Record
  | [] => [r]
  | x :: xs => if x.name.toNat < r.name.toNat then x :: insertRecord r xs else r :: x :: xs

/-- The client numbers in ascending order. -/
def allClients : List ClientId := [0, 1, 2, 3, 4, 5, 6, 7, 8, 9, 10, 11, 12, 13, 14, 15]

/-- The slot numbers in ascending order. -/
def allSlots : List SlotId := [0, 1, 2, 3, 4, 5, 6, 7]

/-- The port numbers in ascending order. -/
def allPorts : List Port := [0, 1, 2, 3, 4, 5, 6, 7]

/-- A fixed table with every entry changed by `f`. -/
def mapVector {α : Type} {n : Nat} (f : α → α) (v : Vector α n) : Vector α n :=
  ⟨⟨v.toList.map f⟩, by simp⟩

/-! ### Slots -/

/-- The resource name of a live slot: WAITING, GATING, HELD or RECALLED (R29). -/
def Slot.liveName : Slot → Option Name
  | .waiting n _ _ => some n
  | .gating n _ _ => some n
  | .held n _ _ _ => some n
  | .recalled n _ _ _ _ => some n
  | .free => none
  | .ended _ _ _ _ => none

/-- The generation of a holding slot: GATING, HELD or RECALLED (R29). -/
def Slot.holdingGen : Slot → Option Gen
  | .gating _ _ g => some g
  | .held _ _ g _ => some g
  | .recalled _ _ g _ _ => some g
  | .free => none
  | .waiting _ _ _ => none
  | .ended _ _ _ _ => none

/-- Is the slot HELD or RECALLED? -/
def Slot.leased : Slot → Bool
  | .held _ _ _ _ => true
  | .recalled _ _ _ _ _ => true
  | _ => false

/-- Is the slot RECALLED? -/
def Slot.isRecalled : Slot → Bool
  | .recalled _ _ _ _ _ => true
  | _ => false

/-- Is the slot WAITING? -/
def Slot.isWaiting : Slot → Bool
  | .waiting _ _ _ => true
  | _ => false

/-- Is the slot FREE? -/
def Slot.isFree : Slot → Bool
  | .free => true
  | _ => false

/-- Is the slot GATING? -/
def Slot.isGating : Slot → Bool
  | .gating _ _ _ => true
  | _ => false

/-- Is the slot ENDED? -/
def Slot.isEnded : Slot → Bool
  | .ended _ _ _ _ => true
  | _ => false

/-- The resource name, mode and generation of a holding slot (R29). -/
def Slot.holding : Slot → Option (Name × Mode × Gen)
  | .gating n m g => some (n, m, g)
  | .held n m g _ => some (n, m, g)
  | .recalled n m g _ _ => some (n, m, g)
  | .free => none
  | .waiting _ _ _ => none
  | .ended _ _ _ _ => none

/-- The resource name and mode of a WAITING slot (R29). -/
def Slot.wait : Slot → Option (Name × Mode)
  | .waiting n m _ => some (n, m)
  | .free => none
  | .gating _ _ _ => none
  | .held _ _ _ _ => none
  | .recalled _ _ _ _ _ => none
  | .ended _ _ _ _ => none

/-- A deadline armed `ms` milliseconds after now, modulo 2^40 (R59). -/
def State.after (s : State) (ms : Nat) : Deadline :=
  { value := s.clock + BitVec.ofNat 40 ms, raised := false }

/-- The lease term of a resource in milliseconds, read from its record at this moment (R61); 0 where no record of the
name is present, which no slot that holds one sees (log entry 17). -/
def State.termMs (s : State) (n : Name) : Nat :=
  match s.find n with
  | some r => r.leaseTerm.toNat * 10
  | none => 0

/-! ### Change queues (R104, R105, R108) -/

/-- A new urgent entry at the tail of the urgent part, ahead of every ordinary entry (R105). -/
def insertUrgent (i : SlotId) : List Entry → List Entry
  | [] => [⟨i, .urgent⟩]
  | e :: es => if e.cls = .urgent then e :: insertUrgent i es else ⟨i, .urgent⟩ :: e :: es

/-- A queue without the entry of a slot (R108). -/
def removeEntry (i : SlotId) (q : List Entry) : List Entry := q.filter (fun e => e.slot != i)

/-- The effect of a posting on a queue, by the entry the slot already has (R105). -/
def postEntry (i : SlotId) (cls : EntryClass) (q : List Entry) : List Entry :=
  match q.find? (fun e => e.slot == i), cls with
  | none, .urgent => insertUrgent i q
  | none, .ordinary => q ++ [⟨i, .ordinary⟩]
  | some ⟨_, .urgent⟩, _ => q
  | some ⟨_, .ordinary⟩, .urgent => insertUrgent i (removeEntry i q)
  | some ⟨_, .ordinary⟩, .ordinary => q

/-- A posting of a slot to its client's change queue (R105). -/
def State.post (s : State) (c : ClientId) (i : SlotId) (cls : EntryClass) : State :=
  s.setQueue c (postEntry i cls (s.client c).queue)

/-- The removal of a slot's entry from its client's change queue (R108). -/
def State.unpost (s : State) (c : ClientId) (i : SlotId) : State :=
  s.setQueue c (removeEntry i (s.client c).queue)

/-! ### Holder lists and wait queues (R2, R3) -/

/-- The record without the holder-list entry of a slot; the entries behind it keep their order (R2). -/
def Record.dropHolder (r : Record) (c : ClientId) (i : SlotId) : Record :=
  { r with holders := r.holders.filter (fun h => !(h.client == c && h.slot == i)) }

/-- The record without the wait-queue entry of a slot; the others keep their order (R3). -/
def Record.dropWaiter (r : Record) (c : ClientId) (i : SlotId) : Record :=
  { r with waiters := r.waiters.filter (fun w => !(w.client == c && w.slot == i)) }

/-- A wait queue with an entry placed behind every entry of equal or more urgent priority and ahead of the less urgent
ones (R44). -/
def insertWaiter (w : Waiter) : List Waiter → List Waiter
  | [] => [w]
  | x :: xs => if x.priority ≤ w.priority then x :: insertWaiter w xs else w :: x :: xs

/-- A slot's entry leaves the holder list of a resource. -/
def State.leaveHolders (s : State) (n : Name) (c : ClientId) (i : SlotId) : State :=
  s.updateRecord n (fun r => r.dropHolder c i)

/-- A slot's entry leaves the wait queue of a resource. -/
def State.leaveQueue (s : State) (n : Name) (c : ClientId) (i : SlotId) : State :=
  s.updateRecord n (fun r => r.dropWaiter c i)

/-- Is a waiter of this mode compatible with the resource's holding slots (R43, Table 3-2)? -/
def Record.compatible (r : Record) : Mode → Bool
  | .exclusive => r.holders.isEmpty
  | .shared => r.holders.all (fun h => h.mode == .shared) && decide (r.holders.length < r.shareLimit)

/-! ### The gate controller (R91, R92) -/

/-- The channel of a resource, if its record has one. -/
def State.gateOf (s : State) (n : Name) : Option ChannelId := (s.find n).bind (·.gate)

/-- The channel joins a branch (R91, R94). -/
def State.connect (s : State) (g : ChannelId) (b : Branch) : State :=
  s.setChannel g { s.channel g with state := .connected b }

/-- Is the channel SETTLING? -/
def Channel.isSettling (x : Channel) : Bool :=
  match x.state with
  | .settling _ => true
  | _ => false

/-- The holder end of a gated resource (R92): the CONNECTED channel drops its branch and its settle timer starts from
zero. A channel in another state is left as it is; R102 says that the report always finds it CONNECTED. -/
def Channel.holderEnd (x : Channel) : Channel :=
  match x.state with
  | .connected _ => { x with state := .settling 0 }
  | .settling _ => x
  | .disconnected => x

/-- The report of a holder end to the gate controller, for a resource that has a channel (R92). -/
def State.holderEnd (s : State) (n : Name) : State :=
  match s.gateOf n with
  | some g => s.setChannel g (s.channel g).holderEnd
  | none => s

/-! ### Generations (R115, R116) -/

/-- The generations carried by the holding slots of the whole chip. -/
def State.heldGenerations (s : State) : List Gen :=
  s.clients.toList.flatMap (fun c => c.slots.toList.filterMap Slot.holdingGen)

/-- The value after a generation: plus 1, or 1 after 4294967295 (R116). -/
def nextGen (g : Gen) : Gen := if g = 4294967295#32 then 1#32 else g + 1#32

/-- The first value from `g` on that is not in `held`, skipping at most as many values as the number given. -/
def skipHeld (held : List Gen) : Nat → Gen → Gen
  | 0, g => g
  | n + 1, g => if held.contains g then skipHeld held n (nextGen g) else g

/-- The generation the next grant draws (R116): the first candidate after the counter carried by no holding slot. As many
skips suffice as there are holding slots, since the candidates skipped differ from one another. -/
def State.drawn (s : State) : Gen :=
  skipHeld s.heldGenerations s.heldGenerations.length (nextGen s.generation)

/-! ### The grant pass (R45, R46) -/

/-- The first two steps of a grant (R46): the generation is drawn and the counter takes it, and the head waiter `w`, whose
followers are `rest`, goes from the wait queue to the tail of the holder list. -/
def State.grantEntry (s : State) (n : Name) (w : Waiter) (rest : List Waiter) : State :=
  State.updateRecord { s with generation := s.drawn } n (fun r =>
    { r with waiters := rest, holders := r.holders ++ [⟨w.client, w.slot, w.mode, s.drawn⟩] })

/-- The slot of a granted waiter becomes HELD with its lease deadline, and is posted ordinary (R46, step 4). `own` is the
client whose own ACQUIRE runs the pass: a slot of it is not posted (R48). -/
def State.startLease (s : State) (own : Option ClientId) (n : Name) (w : Waiter) (g : Gen) : State :=
  let t := s.setSlot w.client w.slot (.held n w.mode g (s.after (s.termMs n)))
  if own = some w.client then t else t.post w.client w.slot .ordinary

/-- The grant of the head waiter `w`, whose followers are `rest` (R46, R91): GATING where the resource's channel is SETTLING,
else HELD, with the channel, if any, connected to the client's branch. -/
def State.grant (s : State) (own : Option ClientId) (n : Name) (w : Waiter) (rest : List Waiter) : State :=
  let t := s.grantEntry n w rest
  match t.gateOf n with
  | some g =>
    if (t.channel g).isSettling then t.setSlot w.client w.slot (.gating n w.mode s.drawn)
    else (t.startLease own n w s.drawn).connect g (t.client w.client).branch
  | none => t.startLease own n w s.drawn

/-- The grant pass over the entries of a wait queue, head first: it grants until an entry is incompatible (R45). -/
def grantLoop (own : Option ClientId) (n : Name) : List Waiter → State → State
  | [], s => s
  | w :: rest, s =>
    match s.find n with
    | some r => if r.compatible w.mode then grantLoop own n rest (s.grant own n w rest) else s
    | none => s

/-- The grant pass for a resource (R45). -/
def State.grantPass (s : State) (own : Option ClientId) (n : Name) : State :=
  match s.find n with
  | some r => grantLoop own n r.waiters s
  | none => s

/-! ### Recall evaluation (R74 to R80) -/

/-- Is the holder's client strictly less urgent than the waiter (R74, clause 4)? -/
def State.lessUrgent (s : State) (h : Holder) (w : Waiter) : Bool :=
  decide (w.priority < (s.client h.client).priority)

/-- The least urgent of some holders, among equals the one granted last (R76). -/
def State.leastUrgent (s : State) (hs : List Holder) : Option Holder :=
  hs.foldl (fun best h =>
    match best with
    | none => some h
    | some b => if (s.client b.client).priority ≤ (s.client h.client).priority then some h else some b) none

/-- The designated holder for a SHARED head waiter that faces SHARED holders alone (R76). -/
def State.designated (s : State) (r : Record) (w : Waiter) : Option Holder :=
  let candidates := r.holders.filter (fun h => (s.slot h.client h.slot).leased && s.lessUrgent h w)
  let inRecall := candidates.filter (fun h => (s.slot h.client h.slot).isRecalled)
  s.leastUrgent (if inRecall.isEmpty then candidates else inRecall)

/-- Is `h` a blocking holder for the head waiter `w` (R75, R76, Table 5-1)? -/
def State.blocks (s : State) (r : Record) (w : Waiter) (h : Holder) : Bool :=
  match w.mode with
  | .exclusive => true
  | .shared =>
    if r.holders.any (fun x => x.mode == .exclusive) then h.mode == .exclusive
    else s.designated r w == some h

/-- The recall condition for a holder (R74). -/
def State.recallCondition (s : State) (r : Record) (h : Holder) : Bool :=
  match r.waiters with
  | [] => false
  | w :: _ =>
    r.recallGrace != 0#16 && !r.compatible w.mode && (s.slot h.client h.slot).leased && s.lessUrgent h w &&
      s.blocks r w h

/-- What evaluation does to one holder, the condition being decided: recall (R79), withdrawal (R80), or nothing (R78). -/
def State.applyRecall (s : State) (grace : Half) (h : Holder) (holds : Bool) : State :=
  match s.slot h.client h.slot, holds with
  | .held n m g lease, true =>
    (s.setSlot h.client h.slot (.recalled n m g lease (s.after grace.toNat))).post h.client h.slot .urgent
  | .recalled n m g lease _, false =>
    (s.setSlot h.client h.slot (.held n m g lease)).post h.client h.slot .ordinary
  | _, _ => s

/-- Recall evaluation for a resource (R77, R78): the condition is decided for every holder before any slot is changed, and
applied in holder-list order. -/
def State.evalRecall (s : State) (n : Name) : State :=
  match s.find n with
  | some r =>
    (r.holders.map (fun h => (h, s.recallCondition r h))).foldl
      (fun t x => t.applyRecall r.recallGrace x.1 x.2) s
  | none => s

/-! ### Removal and follow-up (R15, R17, R47) -/

/-- The release of a channel's binding (R17, R90): the state, a running settle and the dead time stay as they are. A dead time
becomes absent at the end of an unbound settle and at chip reset alone (Table 6-1). -/
def Channel.unbind (x : Channel) : Channel := { x with binding := none }

/-- The removal of a record from the directory, with the release of its gate binding (R17). -/
def State.removeRecord (s : State) (n : Name) : State :=
  let s1 := match s.gateOf n with
    | some g => s.setChannel g (s.channel g).unbind
    | none => s
  { s1 with records := s1.records.filter (fun r => r.name != n) }

/-- The follow-up of an event that took an entry out of a list (R47): the removal of a DRAINING record whose last holder
has left (R15), else the grant pass and then recall evaluation. -/
def State.followUp (s : State) (n : Name) : State :=
  match s.find n with
  | some r =>
    if r.state = .draining ∧ r.holders = [] then s.removeRecord n
    else (s.grantPass none n).evalRecall n
  | none => s

/-! ### Ends of waits and leases -/

/-- A WAITING slot ends with a cause (R13, R35, R53): its entry leaves the wait queue, the slot becomes ENDED and is posted
urgent. A slot in another state is left as it is. No follow-up. -/
def State.endWait (s : State) (c : ClientId) (i : SlotId) (cause : EndCause) : State :=
  match s.slot c i with
  | .waiting n m _ => ((s.leaveQueue n c i).setSlot c i (.ended n m none cause)).post c i .urgent
  | _ => s

/-- A holding slot ends with a cause (R16, R70, R81): its entry leaves the holder list, the slot becomes ENDED and keeps its
generation, it is posted urgent, and for a HELD or RECALLED slot the holder end is reported. A slot in another state is
left as it is. No follow-up. -/
def State.endHolding (s : State) (c : ClientId) (i : SlotId) (cause : EndCause) : State :=
  match s.slot c i with
  | .gating n m g => ((s.leaveHolders n c i).setSlot c i (.ended n m (some g) cause)).post c i .urgent
  | .held n m g _ =>
    (((s.leaveHolders n c i).setSlot c i (.ended n m (some g) cause)).post c i .urgent).holderEnd n
  | .recalled n m g _ _ =>
    (((s.leaveHolders n c i).setSlot c i (.ended n m (some g) cause)).post c i .urgent).holderEnd n
  | .free => s
  | .waiting _ _ _ => s
  | .ended _ _ _ _ => s

/-- A slot is freed with the effect and the follow-up that R27 gives for its state; the change queue is left to the caller. -/
def State.freeSlot (s : State) (c : ClientId) (i : SlotId) : State :=
  match s.slot c i with
  | .free => s
  | .waiting n _ _ => ((s.leaveQueue n c i).setSlot c i .free).followUp n
  | .gating n _ _ => ((s.leaveHolders n c i).setSlot c i .free).followUp n
  | .held n _ _ _ => (((s.leaveHolders n c i).setSlot c i .free).holderEnd n).followUp n
  | .recalled n _ _ _ _ => (((s.leaveHolders n c i).setSlot c i .free).holderEnd n).followUp n
  | .ended _ _ _ _ => s.setSlot c i .free

/-- The number of a client's slots that are not FREE. -/
def State.busySlots (s : State) (c : ClientId) : Nat :=
  (allSlots.filter (fun i => !(s.slot c i).isFree)).length

end Sys2Proof.Machine
end

