-- ==== Sys2Proof/Machine/Flags.lean ====
section
/-! DEFINITION. What the spec defines as a function of the tables: a slot's changed mark (R104), the attention lines (R113,
R114), the gate channels' output lines (R89), the bytes a frame shifts out (R139, R164). -/

namespace Sys2Proof.Machine

/-- The changed mark of a slot: has it an entry in its client's change queue (R104)? -/
def State.changedMark (s : State) (c : ClientId) (i : SlotId) : Bool :=
  (s.client c).queue.any (fun e => e.slot == i)

/-- The attention line of a port is active while some OPEN or SUSPECT client of the port has a non-empty change queue (R113). -/
def State.attention (s : State) (p : Port) : Bool :=
  allClients.any (fun c =>
    (s.client c).state != .closed && (s.client c).port == some p && !(s.client c).queue.isEmpty)

/-- The level of a channel's enable line (R89, Table 6-2). -/
def GateState.enable : GateState → Bool
  | .connected _ => true
  | .disconnected => false
  | .settling _ => false

/-- The three branch-select lines, the line of weight 4 the most significant bit (R89, Table 6-2). -/
def GateState.branchLines : GateState → BitVec 3
  | .connected b => BitVec.ofNat 3 b.val
  | .disconnected => 0#3
  | .settling _ => 0#3

/-- Does the channel's settle timer run (Table 6-2)? -/
def GateState.timerRuns : GateState → Bool
  | .settling _ => true
  | .disconnected => false
  | .connected _ => false

/-- The levels of enable and branch-select lines that follow one another when a channel's state changes (R89): into CONNECTED
the branch lines move first and the enable line after them; out of CONNECTED the enable line first. -/
def lineSteps (before after : GateState) : List (Bool × BitVec 3) :=
  if before.enable then
    if after.enable then [(before.enable, before.branchLines)]
    else [(false, before.branchLines), (false, 0#3)]
  else if after.enable then [(false, after.branchLines), (true, after.branchLines)]
  else [(false, 0#3)]

end Sys2Proof.Machine
end

