-- ==== Sys2Proof/Machine/Answers.lean ====
section
/-! DEFINITION. Answers: the views (R109, R121, R153), the status codes (Table 11-6), the payload bytes (Table 11-5, R162, R163) and the
answer frame (R159), and what a port shifts out in a frame (R139, R164). -/

namespace Sys2Proof.Machine

/-! ### Views -/

/-- The state of a slot as an answer reports it (Table 11-7). -/
def Slot.tag : Slot → SlotTag
  | .free => .free
  | .waiting _ _ _ => .waiting
  | .gating _ _ _ => .gating
  | .held _ _ _ _ => .held
  | .recalled _ _ _ _ _ => .recalled
  | .ended _ _ _ _ => .ended

/-- The slot view of a slot with its changed mark (R109, Table 7-3). -/
def viewOf (i : SlotId) (changed : Bool) : Slot → SlotView
  | .free => ⟨i, .free, changed, none, none, none, none, none, none⟩
  | .waiting n m _ => ⟨i, .waiting, changed, some n, some m, none, none, none, none⟩
  | .gating n m g => ⟨i, .gating, changed, some n, some m, some g, none, none, none⟩
  | .held n m g l => ⟨i, .held, changed, some n, some m, some g, some l.value, none, none⟩
  | .recalled n m g l r => ⟨i, .recalled, changed, some n, some m, some g, some l.value, some r.value, none⟩
  | .ended n m g cause => ⟨i, .ended, changed, some n, some m, g, none, none, some cause⟩

/-- The view of a client's slot at this moment (R109). -/
def State.viewSlot (s : State) (c : ClientId) (i : SlotId) : SlotView :=
  viewOf i (s.changedMark c i) (s.slot c i)

/-- The dead time of a channel, as answers report it; a bound channel has one (R88). -/
def State.deadTimeOf (s : State) (g : ChannelId) : Half := (s.channel g).deadTime.getD 0#16

/-- The resource view of a record at this moment (R121, Table 8-1). -/
def State.viewRecord (s : State) (r : Record) : ResourceView :=
  { name := r.name
    state := r.state
    rank := r.rank
    shareLimit := r.shareLimit
    leaseTerm := r.leaseTerm
    recallGrace := r.recallGrace
    gate := r.gate.map (fun g => (g, s.deadTimeOf g))
    holders := r.holders.map (fun h => ⟨h.client, h.slot, h.mode, h.generation, (s.slot h.client h.slot).tag⟩)
    waiterCount := r.waiters.length
    headPriority := r.waiters.head?.map (·.priority) }

/-- The values a PROBE reports, read when it is taken (R153, Table 10-3). -/
def State.viewProbe (s : State) (p : Port) : ProbeView :=
  { clock := s.clock
    faulted := allPorts.map (fun q => (s.port q).link == .faulted)
    score := (s.port p).score
    badFrames := (s.port p).badFrames
    overruns := (s.port p).overruns }

/-! ### Codes -/

/-- The status codes of Table 11-6. -/
def statusCode : Status → Byte
  | .ok => 0x00#8
  | .granted => 0x01#8
  | .pending => 0x02#8
  | .queued => 0x03#8
  | .unavailable => 0x04#8
  | .empty => 0x05#8
  | .late => 0x06#8
  | .valid => 0x07#8
  | .stale => 0x08#8
  | .badRequest => 0x10#8
  | .badParam => 0x11#8
  | .notOpen => 0x12#8
  | .badClient => 0x13#8
  | .inUse => 0x14#8
  | .notAdmin => 0x15#8
  | .seqError => 0x16#8
  | .seqConflict => 0x17#8
  | .noResource => 0x18#8
  | .retiring => 0x19#8
  | .duplicate => 0x1A#8
  | .dirFull => 0x1B#8
  | .channelBusy => 0x1C#8
  | .badMode => 0x1D#8
  | .order => 0x1E#8
  | .already => 0x1F#8
  | .slotsFull => 0x20#8
  | .waitBusy => 0x21#8
  | .notHeld => 0x22#8
  | .notWaiting => 0x23#8
  | .resourceBusy => 0x24#8
  | .badState => 0x25#8

/-- The slot state codes of Table 11-7. -/
def tagCode : SlotTag → Byte
  | .free => 0#8
  | .waiting => 1#8
  | .gating => 2#8
  | .held => 3#8
  | .recalled => 4#8
  | .ended => 5#8

/-- The end cause codes of Table 11-7. -/
def causeCode : EndCause → Byte
  | .expired => 1#8
  | .revoked => 2#8
  | .retired => 3#8
  | .timeout => 4#8
  | .link => 5#8

/-- The mode codes of Table 11-7. -/
def modeCode : Mode → Byte
  | .exclusive => 0#8
  | .shared => 1#8

/-- The RETIRE outcome codes (R160). -/
def outcomeCode : RetireOutcome → Byte
  | .removed => 0#8
  | .draining => 1#8

/-! ### Bytes -/

/-- A count, a position or an index as a single byte (R160). -/
def natByte (n : Nat) : Byte := BitVec.ofNat 8 n

/-- The 21 bytes of a slot view, absent fields as zero bytes (R162, Table 11-7). -/
def slotViewBytes (v : SlotView) : List Byte :=
  [natByte v.index.val, tagCode v.state, if v.changed then 1#8 else 0#8] ++ bytes16 (v.name.getD 0#16) ++
    [(v.mode.map modeCode).getD 0#8] ++ bytes32 (v.generation.getD 0#32) ++ bytes40 (v.lease.getD 0#40) ++
    bytes40 (v.recallBy.getD 0#40) ++ [(v.cause.map causeCode).getD 0#8]

/-- The bit of a mode in a holder item (Table 11-8). -/
def modeBit : Mode → BitVec 1
  | .exclusive => 0#1
  | .shared => 1#1

/-- The 6 bytes of a holder item (Table 11-8). -/
def holderBytes (h : HolderView) : List Byte :=
  [BitVec.ofNat 4 h.client.val ++ (BitVec.ofNat 3 h.slot.val ++ modeBit h.mode), tagCode h.state] ++
    bytes32 h.generation

/-- Bytes 7-8 of a resource view: gate present, gate channel, a 0 bit, dead time; 0 without a gate (Table 11-8). -/
def gateField : Option (ChannelId × Half) → BitVec 16
  | none => 0#16
  | some (g, d) => 1#1 ++ (BitVec.ofNat 4 g.val ++ (0#1 ++ d.extractLsb' 0 10))

/-- The bytes of a resource view (R163, Table 11-8). -/
def resourceViewBytes (v : ResourceView) : List Byte :=
  bytes16 v.name ++
    [BitVec.ofBool (v.state == .draining) ++ (BitVec.ofNat 3 (v.shareLimit - 1) ++ BitVec.ofNat 4 v.rank.val)] ++
    bytes16 v.leaseTerm ++ bytes16 v.recallGrace ++ bytes16 (gateField v.gate) ++
    [BitVec.ofNat 5 v.waiterCount ++ BitVec.ofNat 3 ((v.headPriority.map Fin.val).getD 0)] ++
    v.holders.flatMap holderBytes

/-- A byte whose bit n is the n-th of some Booleans (Table 11-9, offset 10). -/
def flagsByte (bs : List Bool) : Byte :=
  bs.foldr (fun b acc => (acc <<< 1) ||| (if b then 1#8 else 0#8)) 0#8

/-- The 16 bytes of a PROBE answer (Table 11-9). -/
def probeBytes (v : ProbeView) : List Byte :=
  bytes16 Config.vendorCode ++ bytes16 Config.partCode ++ [Config.revision] ++ bytes40 v.clock ++
    [flagsByte v.faulted, natByte v.score] ++ bytes16 v.badFrames ++ bytes16 v.overruns

/-- The payload bytes of an answer (Table 11-5). -/
def payloadBytes : Payload → List Byte
  | .nothing => []
  | .count n => [natByte n]
  | .granted i g l => natByte i.val :: (bytes32 g ++ bytes40 l)
  | .pending i g ch d => natByte i.val :: (bytes32 g ++ [natByte ch.val] ++ bytes16 d)
  | .queued i position => [natByte i.val, natByte position]
  | .late cause => [causeCode cause]
  | .renewed t l => tagCode t :: bytes40 l
  | .slotView v => slotViewBytes v
  | .fetched v remaining => slotViewBytes v ++ [natByte remaining]
  | .valid c i m => [natByte c.val, natByte i.val, modeCode m]
  | .resourceView v => resourceViewBytes v
  | .page more names => (if more then 1#8 else 0#8) :: names.flatMap bytes16
  | .retired outcome n => [outcomeCode outcome, natByte n]
  | .probe v => probeBytes v

/-- The length of an answer frame: its payload length and 6 (Table 11-4). -/
def answerLength (a : Answer) : Nat := (payloadBytes a.payload).length + 6

/-- The bytes of an answer before its check byte (Table 11-4). -/
def answerCovered (a : Answer) : List Byte :=
  [natByte (answerLength a), statusCode a.status, a.seqEcho, a.kindEcho, if a.replay then 1#8 else 0#8] ++
    payloadBytes a.payload

/-- The bytes of an answer frame, its check computed over its own bytes (R159). -/
def answerBytes (a : Answer) : List Byte := answerCovered a ++ [crc8 (answerCovered a)]

/-! ### The outgoing content of a frame -/

/-- The outgoing content a port chooses when a frame begins (R139). -/
def PortUnit.outgoing (u : PortUnit) : Outgoing :=
  match u.link, u.slot with
  | .faulted, _ => .faultedFill
  | .up, .ready a => .answer a
  | .up, .working _ => .workingFill
  | .up, .empty => .idleFill

/-- The byte that a frame shifts out at an offset: the answer's bytes in order, then IDLE fill; or fill alone (R139, R164). -/
def Outgoing.byteAt (o : Outgoing) (k : Nat) : Byte :=
  match o with
  | .faultedFill => Config.faultedFill
  | .workingFill => Config.workingFill
  | .idleFill => Config.idleFill
  | .answer a => (answerBytes a).getD k Config.idleFill

/-- The bit that a frame shifts out on its clock number `k`, each byte most significant bit first (Section 10.2). -/
def Outgoing.bitAt (o : Outgoing) (k : Nat) : Bool := (o.byteAt (k / 8)).getLsbD (7 - k % 8)

/-- Does a frame of `len` bytes carry an answer whole (R139)? -/
def Outgoing.carriedWhole (o : Outgoing) (len : Nat) : Bool :=
  match o with
  | .answer a => decide (answerLength a ≤ len)
  | .faultedFill => false
  | .workingFill => false
  | .idleFill => false

end Sys2Proof.Machine
end

