-- ==== Sys2Proof/Machine/Operands.lean ====
section
/-! DEFINITION. The operands of requests: the codes of enumerated bytes and the accepted ranges (R158), each by the check
of its kind's own rule. -/

namespace Sys2Proof.Machine

/-- The mode byte of ACQUIRE (Table 11-3): 0 EXCLUSIVE, 1 SHARED, any other outside the accepted values (R39). -/
def modeOf (b : Byte) : Option Mode :=
  if b = 0#8 then some .exclusive else if b = 1#8 then some .shared else none

/-- The slot index byte of RELEASE, CANCEL, RENEW and SLOT_READ: above 7 it is refused (R52, R62, R66, R112). -/
def slotOf (b : Byte) : Option SlotId :=
  if h : b.toNat < 8 then some ⟨b.toNat, h⟩ else none

/-- The branch or priority byte of OPEN: above 7 it is refused (R22). -/
def below8 (b : Byte) : Option (Fin 8) :=
  if h : b.toNat < 8 then some ⟨b.toNat, h⟩ else none

/-- The rank byte of DEFINE and AMEND and the gate channel byte of DEFINE: above 15 they are refused (R7, R9). -/
def below16 (b : Byte) : Option (Fin 16) :=
  if h : b.toNat < 16 then some ⟨b.toNat, h⟩ else none

/-- Is a share limit 1-8 (Tables 1-1 and 1-2)? -/
def shareLimitOk (b : Byte) : Bool := decide (1 ≤ b.toNat) && decide (b.toNat ≤ 8)

/-- The gate a DEFINE asks for: `some none` for gate present no, whatever its channel and dead time (R7); `some (some g)`
for an accepted channel and dead time; `none` where R7 refuses them with BAD_PARAM. -/
def gateRequested (d : DefineParams) : Option (Option (ChannelId × Half)) :=
  if d.gatePresent = 0#8 then some none
  else if d.gatePresent = 1#8 then
    match below16 d.gateChannel with
    | some g =>
      if 1 ≤ d.deadTime.toNat ∧ d.deadTime.toNat ≤ 1000 ∧ d.shareLimit = 1#8 then some (some (g, d.deadTime))
      else none
    | none => none
  else none

/-- The rank and the gate of a DEFINE whose parameters pass check 1 of R7 (Table 1-2), none where it answers BAD_PARAM. -/
def defineAccepted (d : DefineParams) : Option (Fin 16 × Option (ChannelId × Half)) :=
  if d.name = 0#16 ∨ shareLimitOk d.shareLimit = false ∨ d.leaseTerm = 0#16 then none
  else
    match below16 d.rank, gateRequested d with
    | some rank, some gate => some (rank, gate)
    | _, _ => none

/-- The rank of an AMEND whose parameters pass check 1 of R9, none where it answers BAD_PARAM. -/
def amendAccepted (a : AmendParams) : Option (Fin 16) :=
  if a.name = 0#16 ∨ a.leaseTerm = 0#16 ∨ shareLimitOk a.shareLimit = false then none
  else below16 a.rank

/-- The branch, priority and admin attribute of an OPEN that passes R22 on a port, or the status that refuses it. -/
def openAccepted (p : Port) (branch priority flags : Byte) : Except Status (Branch × Priority × Bool) :=
  match below8 branch, below8 priority with
  | some b, some pr =>
    if flagsAdmin flags && p != 0 then .error .notAdmin else .ok (b, pr, flagsAdmin flags)
  | _, _ => .error .badParam

end Sys2Proof.Machine
end

