-- ==== Sys2Proof/Machine/Clients.lean ====
section
/-! DEFINITION. Carrying out OPEN, TAKEOVER and CLOSE (R22 to R28, R36) once a request has passed its screening. Each answers
the state, the status and the payload of the answer. -/

namespace Sys2Proof.Machine

/-- What carrying out a request yields: the tables afterwards, the status and the payload of its answer. -/
abbrev Result := State × Status × Payload

/-- A refusal: the status, no payload, and nothing changed (R161). -/
def refusal (s : State) (st : Status) : Result := (s, st, .nothing)

/-- The state of a client opened by a request that completes now on a port: SUSPECT while the port is FAULTED (R23, R36). -/
def State.openState (s : State) (p : Port) : ClientState :=
  match (s.port p).link with
  | .up => .opened
  | .faulted => .suspect

/-- OPEN for a CLOSED client (R22, R23). -/
def carryOpen (p : Port) (c : ClientId) (branch priority flags : Byte) (s : State) : Result :=
  match openAccepted p branch priority flags with
  | .error st => refusal s st
  | .ok (b, pr, adm) =>
    (s.setClient c { s.client c with
        state := s.openState p, port := some p, branch := b, priority := pr, admin := adm }, .ok, .count 0)

/-- Every slot of a client freed in index order, each with its follow-up (R27), and then the change queue emptied. -/
def State.freeAll (s : State) (c : ClientId) : State :=
  let t := allSlots.foldl (fun u i => u.freeSlot c i) s
  t.setClient c { t.client c with slots := Vector.replicate 8 .free, queue := [] }

/-- TAKEOVER, an OPEN classed new for a client open on the port (R25, R133). -/
def carryTakeover (p : Port) (c : ClientId) (branch priority flags : Byte) (s : State) : Result :=
  match openAccepted p branch priority flags with
  | .error st => refusal s st
  | .ok (b, pr, adm) =>
    let t := s.freeAll c
    (t.setClient c { t.client c with
        state := s.openState p, branch := b, priority := pr, admin := adm }, .ok, .count (s.busySlots c))

/-- CLOSE (R26, R27): the port number and the cache are kept (R19). -/
def carryClose (c : ClientId) (s : State) : Result :=
  let t := s.freeAll c
  (t.setClient c { t.client c with
      state := .closed, branch := 0, priority := 0, admin := false }, .ok, .count (s.busySlots c))

end Sys2Proof.Machine
end

