-- ==== Sys2Proof/Machine/Acquire.lean ====
section
/-! DEFINITION. Carrying out ACQUIRE (R39 to R51) and CANCEL (R52). -/

namespace Sys2Proof.Machine

/-- The client has a slot in WAITING (R40, check 3). -/
def State.hasWait (s : State) (c : ClientId) : Bool := allSlots.any (fun i => (s.slot c i).isWaiting)

/-- The client has a live slot naming the resource (R40, check 4). -/
def State.hasLive (s : State) (c : ClientId) (n : Name) : Bool :=
  allSlots.any (fun i => (s.slot c i).liveName == some n)

/-- The client has a live slot whose resource has a rank equal to or greater than `rank` (R40, check 5; R41). -/
def State.rankBlocked (s : State) (c : ClientId) (rank : Fin 16) : Bool :=
  allSlots.any (fun i =>
    match (s.slot c i).liveName.bind s.find with
    | some r => decide (rank ≤ r.rank)
    | none => false)

/-- The FREE slot of lowest index (R31). -/
def State.firstFree (s : State) (c : ClientId) : Option SlotId :=
  allSlots.find? (fun i => (s.slot c i).isFree)

/-- The admission checks of R40 in their order, for a present record: the refusal, or the slot allocated. -/
def State.admission (s : State) (c : ClientId) (r : Record) (m : Mode) : Except Status SlotId :=
  if r.state = .draining then .error .retiring
  else if m = .shared ∧ r.shareLimit = 1 then .error .badMode
  else if s.hasWait c then .error .waitBusy
  else if s.hasLive c r.name then .error .already
  else if s.rankBlocked c r.rank then .error .order
  else
    match s.firstFree c with
    | some i => .ok i
    | none => .error .slotsFull

/-- The wait queue of a resource. -/
def State.waitersOf (s : State) (n : Name) : List Waiter :=
  match s.find n with
  | some r => r.waiters
  | none => []

/-- The place of a slot's entry in the wait queue, counted from 1 at the head (R51). -/
def State.position (s : State) (n : Name) (c : ClientId) (i : SlotId) : Nat :=
  (s.waitersOf n).findIdx (fun w => w.client == c && w.slot == i) + 1

/-- The admitted request's entry joins the wait queue and its slot becomes WAITING (R44). -/
def State.enqueue (s : State) (c : ClientId) (i : SlotId) (n : Name) (m : Mode) : State :=
  (s.setSlot c i (.waiting n m none)).updateRecord n
    (fun r => { r with waiters := insertWaiter ⟨c, i, m, (s.client c).priority⟩ r.waiters })

/-- The gate channel and dead time that a PENDING answer reports (R160); a GATING slot's resource has a channel. -/
def State.gateReport (s : State) (n : Name) : ChannelId × Half :=
  match s.gateOf n with
  | some g => (g, s.deadTimeOf g)
  | none => (0, 0#16)

/-- The answer to an admitted ACQUIRE from the state of its slot after the grant pass (R48), with the steps that depend on
the wait limit; recall evaluation last. `position` is the place the entry took on insertion. A try, and any
ACQUIRE of a SUSPECT client (R36), that was not granted leaves the queue again (R50). -/
def State.answerAcquire (s : State) (c : ClientId) (i : SlotId) (n : Name) (m : Mode) (limit : Half)
    (position : Nat) : Result :=
  match s.slot c i with
  | .held _ _ g lease => (s.evalRecall n, .granted, .granted i g lease.value)
  | .gating _ _ g => (s.evalRecall n, .pending, .pending i g (s.gateReport n).1 (s.gateReport n).2)
  | _ =>
    if limit = 0#16 ∨ (s.client c).state = .suspect then
      (((s.leaveQueue n c i).setSlot c i .free).evalRecall n, .unavailable, .nothing)
    else if limit = Config.noLimit then
      (s.evalRecall n, .queued, .queued i position)
    else
      ((s.setSlot c i (.waiting n m (some (s.after limit.toNat)))).evalRecall n, .queued, .queued i position)

/-- ACQUIRE (R39, R40, R48). -/
def carryAcquire (c : ClientId) (n : Name) (mode : Byte) (limit : Half) (s : State) : Result :=
  match modeOf mode with
  | none => refusal s .badParam
  | some m =>
    if n = 0#16 then refusal s .badParam
    else
      match s.find n with
      | none => refusal s .noResource
      | some r =>
        match s.admission c r m with
        | .error st => refusal s st
        | .ok i =>
          ((s.enqueue c i n m).grantPass (some c) n).answerAcquire c i n m limit
            ((s.enqueue c i n m).position n c i)

/-- CANCEL (R52). -/
def carryCancel (c : ClientId) (slot : Byte) (s : State) : Result :=
  match slotOf slot with
  | none => refusal s .badParam
  | some i =>
    match s.slot c i with
    | .waiting n _ _ => (((s.leaveQueue n c i).setSlot c i .free).followUp n, .ok, .nothing)
    | .ended _ _ _ cause => ((s.setSlot c i .free).unpost c i, .late, .late cause)
    | .free => refusal s .notWaiting
    | .gating _ _ _ => refusal s .notWaiting
    | .held _ _ _ _ => refusal s .notWaiting
    | .recalled _ _ _ _ _ => refusal s .notWaiting

end Sys2Proof.Machine
end

