-- ==== Sys2Proof/Machine/Admin.lean ====
section
/-! DEFINITION. Carrying out the administrative requests: DEFINE (R7, R8), AMEND (R9 to R11), RETIRE (R12 to R16) and SEED (R117),
each refused with NOT_ADMIN before its own checks when the client is not administrative (R6). -/

namespace Sys2Proof.Machine

/-- Is the channel bound to a record, or unbound but not DISCONNECTED (R7, check 4)? -/
def Channel.busy (x : Channel) : Bool := x.binding.isSome || x.state != .disconnected

/-- The record an accepted DEFINE creates (R8). -/
def newRecord (d : DefineParams) (rank : Fin 16) (gate : Option ChannelId) : Record :=
  { name := d.name, state := .active, rank := rank, shareLimit := d.shareLimit.toNat, leaseTerm := d.leaseTerm
    recallGrace := d.recallGrace, gate := gate, holders := [], waiters := [] }

/-- The directory with a new record inserted (R8). -/
def State.addRecord (s : State) (r : Record) : State := { s with records := insertRecord r s.records }

/-- The gate controller binds a channel to a resource and takes its dead time (R8, R90). -/
def State.bind (s : State) (g : ChannelId) (n : Name) (dead : Half) : State :=
  s.setChannel g { s.channel g with binding := some n, deadTime := some dead }

/-- DEFINE (R6, R7, R8). -/
def carryDefine (c : ClientId) (d : DefineParams) (s : State) : Result :=
  if (s.client c).admin = false then refusal s .notAdmin
  else
    match defineAccepted d with
    | none => refusal s .badParam
    | some (rank, gate) =>
      if (s.find d.name).isSome then refusal s .duplicate
      else if s.records.length ≥ Config.directoryCapacity then refusal s .dirFull
      else
        match gate with
        | none => (s.addRecord (newRecord d rank none), .ok, .nothing)
        | some (g, dead) =>
          if (s.channel g).busy then refusal s .channelBusy
          else ((s.addRecord (newRecord d rank (some g))).bind g d.name dead, .ok, .nothing)

/-- Checks 3 to 5 of R9 on a present record. -/
def amendRefused (r : Record) (a : AmendParams) (rank : Fin 16) : Option Status :=
  if r.gate.isSome && a.shareLimit != 1#8 then some .badParam
  else if a.shareLimit.toNat < r.holders.length then some .badParam
  else if rank != r.rank && !(r.holders.isEmpty && r.waiters.isEmpty) then some .resourceBusy
  else none

/-- AMEND (R6, R9, R10, R11): the four values are written, then the grant pass and recall evaluation run. -/
def carryAmend (c : ClientId) (a : AmendParams) (s : State) : Result :=
  if (s.client c).admin = false then refusal s .notAdmin
  else
    match amendAccepted a with
    | none => refusal s .badParam
    | some rank =>
      match s.find a.name with
      | none => refusal s .noResource
      | some r =>
        match amendRefused r a rank with
        | some st => refusal s st
        | none =>
          (((s.updateRecord a.name (fun x =>
              { x with leaseTerm := a.leaseTerm, recallGrace := a.recallGrace,
                       shareLimit := a.shareLimit.toNat, rank := rank })).grantPass none a.name).evalRecall a.name,
            .ok, .nothing)

/-- Every waiter of a list ended with cause RETIRED, head to tail (R13, R16). -/
def State.retireWaiters (s : State) (ws : List Waiter) : State :=
  ws.foldl (fun t w => t.endWait w.client w.slot .retired) s

/-- Every holder of a list ended with cause RETIRED, in holder-list order (R16). -/
def State.retireHolders (s : State) (hs : List Holder) : State :=
  hs.foldl (fun t h => t.endHolding h.client h.slot .retired) s

/-- A graceful RETIRE of a present record (R13, R14). -/
def State.retireGracefully (s : State) (r : Record) : Result :=
  if r.state = .draining then (s, .ok, .retired .draining 0)
  else if r.holders = [] then (s.removeRecord r.name, .ok, .retired .removed 0)
  else
    ((((s.retireWaiters r.waiters).updateRecord r.name
        (fun x => { x with waiters := [], state := .draining })).evalRecall r.name),
      .ok, .retired .draining r.waiters.length)

/-- An immediate RETIRE of a present record (R16). -/
def State.retireAtOnce (s : State) (r : Record) : Result :=
  (((s.retireHolders r.holders).retireWaiters r.waiters).removeRecord r.name,
    .ok, .retired .removed (r.holders.length + r.waiters.length))

/-- RETIRE (R6, R12): mode byte 0 GRACEFUL, 1 IMMEDIATE. -/
def carryRetire (c : ClientId) (n : Name) (mode : Byte) (s : State) : Result :=
  if (s.client c).admin = false then refusal s .notAdmin
  else if n = 0#16 ∨ (mode ≠ 0#8 ∧ mode ≠ 1#8) then refusal s .badParam
  else
    match s.find n with
    | none => refusal s .noResource
    | some r => if mode = 0#8 then s.retireGracefully r else s.retireAtOnce r

/-- SEED (R6, R117). -/
def carrySeed (c : ClientId) (value : Gen) (s : State) : Result :=
  if (s.client c).admin = false then refusal s .notAdmin
  else if value = 0#32 then refusal s .badParam
  else if s.generation ≠ 0#32 then refusal s .badState
  else ({ s with generation := value }, .ok, .nothing)

end Sys2Proof.Machine
end

