-- ==== Sys2Proof/Machine/Leases.lean ====
section
/-! DEFINITION. Carrying out RENEW (R62, R63), RENEW_ALL (R64) and RELEASE (R66 to R69). -/

namespace Sys2Proof.Machine

/-- The lease deadline of a HELD or RECALLED slot rewritten to now plus the resource's lease term (R63); a slot in another
state is left as it is. -/
def State.renewSlot (s : State) (c : ClientId) (i : SlotId) : State :=
  match s.slot c i with
  | .held n m g _ => s.setSlot c i (.held n m g (s.after (s.termMs n)))
  | .recalled n m g _ r => s.setSlot c i (.recalled n m g (s.after (s.termMs n)) r)
  | _ => s

/-- RENEW (R62, R63). -/
def carryRenew (c : ClientId) (slot : Byte) (s : State) : Result :=
  match slotOf slot with
  | none => refusal s .badParam
  | some i =>
    match s.slot c i with
    | .held n _ _ _ => (s.renewSlot c i, .ok, .renewed .held (s.after (s.termMs n)).value)
    | .recalled n _ _ _ _ => (s.renewSlot c i, .ok, .renewed .recalled (s.after (s.termMs n)).value)
    | .gating _ _ _ => refusal s .pending
    | .free => refusal s .notHeld
    | .waiting _ _ _ => refusal s .notHeld
    | .ended _ _ _ _ => refusal s .notHeld

/-- The number of a client's slots that are HELD or RECALLED. -/
def State.leasedSlots (s : State) (c : ClientId) : Nat :=
  (allSlots.filter (fun i => (s.slot c i).leased)).length

/-- RENEW_ALL (R64): every HELD or RECALLED slot in index order, all with one value of now. -/
def carryRenewAll (c : ClientId) (s : State) : Result :=
  (allSlots.foldl (fun u i => u.renewSlot c i) s, .ok, .count (s.leasedSlots c))

/-- RELEASE (R66): of a HELD or RECALLED slot (R67), of a GATING slot (R68), of an ENDED slot (R69). -/
def carryRelease (c : ClientId) (slot : Byte) (s : State) : Result :=
  match slotOf slot with
  | none => refusal s .badParam
  | some i =>
    match s.slot c i with
    | .held n _ _ _ =>
      (((((s.leaveHolders n c i).holderEnd n).setSlot c i .free).unpost c i).followUp n, .ok, .nothing)
    | .recalled n _ _ _ _ =>
      (((((s.leaveHolders n c i).holderEnd n).setSlot c i .free).unpost c i).followUp n, .ok, .nothing)
    | .gating n _ _ => (((s.leaveHolders n c i).setSlot c i .free).followUp n, .ok, .nothing)
    | .ended _ _ _ cause => ((s.setSlot c i .free).unpost c i, .late, .late cause)
    | .free => refusal s .notHeld
    | .waiting _ _ _ => refusal s .notHeld

end Sys2Proof.Machine
end

