-- ==== Sys2Proof/Machine/Lookup.lean ====
section
/-! DEFINITION. Carrying out the requests that report: FETCH (R110), SLOT_READ (R112), CHECK (R119), QUERY (R121) and DIRECTORY (R123). -/

namespace Sys2Proof.Machine

/-- FETCH (R110): the view of the head entry's slot, the entry removed, an ENDED slot freed. -/
def carryFetch (c : ClientId) (s : State) : Result :=
  match (s.client c).queue with
  | [] => refusal s .empty
  | e :: rest =>
    let t := s.setQueue c rest
    ((match s.slot c e.slot with
      | .ended _ _ _ _ => t.setSlot c e.slot .free
      | _ => t), .ok, .fetched (s.viewSlot c e.slot) rest.length)

/-- SLOT_READ (R112). -/
def carrySlotRead (c : ClientId) (slot : Byte) (s : State) : Result :=
  match slotOf slot with
  | none => refusal s .badParam
  | some i => (s, .ok, .slotView (s.viewSlot c i))

/-- The holder of a record that carries a generation in a HELD or RECALLED slot (R119). -/
def State.validHolder (s : State) (r : Record) (g : Gen) : Option Holder :=
  r.holders.find? (fun h => h.generation == g && (s.slot h.client h.slot).leased)

/-- CHECK (R119). -/
def carryCheck (n : Name) (g : Gen) (s : State) : Result :=
  if n = 0#16 then refusal s .badParam
  else
    match s.find n with
    | none => refusal s .noResource
    | some r =>
      match s.validHolder r g with
      | some h => (s, .valid, .valid h.client h.slot h.mode)
      | none => refusal s .stale

/-- QUERY (R121). -/
def carryQuery (n : Name) (s : State) : Result :=
  if n = 0#16 then refusal s .badParam
  else
    match s.find n with
    | none => refusal s .noResource
    | some r => (s, .ok, .resourceView (s.viewRecord r))

/-- The names in the directory at or above a starting name, ascending (R123). -/
def State.namesFrom (s : State) (start : Name) : List Name :=
  (s.records.map (·.name)).filter (fun n => decide (start.toNat ≤ n.toNat))

/-- DIRECTORY (R123): the lowest twelve names at or above the starting name, and whether more follow. -/
def carryDirectory (start : Name) (s : State) : Result :=
  (s, .ok, .page (decide (Config.pageSize < (s.namesFrom start).length))
    ((s.namesFrom start).take Config.pageSize))

end Sys2Proof.Machine
end

