-- ==== Sys2Proof/Machine/Sequence.lean ====
section
/-! DEFINITION. The screening of a client-level request (R126, R127, R131 to R134), replay (R128) and the cache write (R129), the
carrying out of a screened request by its kind, and the order of screenings (R135, R145). -/

namespace Sys2Proof.Machine

/-- The answer to a request, echoing its sequence and kind bytes (Table 11-4). -/
def answerTo (r : Request) (st : Status) (pl : Payload) : Answer :=
  { status := st, seqEcho := r.header.seq, kindEcho := kindCode (bodyKind r.body), replay := false, payload := pl }

/-- The takeover flag of a request: that of OPEN's flags byte (Table 11-3). -/
def bodyTakeover : Body → Bool
  | .openClient _ _ flags => flagsTakeover flags
  | _ => false

/-- Do the request's sequence number, kind and check byte equal the cached ones (R127, R130)? -/
def Cache.matches (k : Cache) (r : Request) : Bool :=
  k.seq == r.header.seq && k.kind == bodyKind r.body && k.check == requestCheck r

/-- The cached answer with the REPLAY flag set (R128). -/
def Cache.replayed (k : Cache) : Answer := { k.answer with replay := true }

/-- What the screening of a request decides. -/
inductive Screening where
  /-- The screening answers the request; nothing is carried out and nothing is cached. -/
  | answered (a : Answer)
  /-- The screening passes the request on to be carried out. -/
  | passed (k : Passage)
  deriving DecidableEq, Repr

/-- The sequence check against a present cache (R127); an open client always has one (R127). -/
def screenSequence (k : Option Cache) (r : Request) : Screening :=
  match k with
  | none => .answered (answerTo r .seqError .nothing)
  | some k =>
    if k.matches r then .answered k.replayed
    else if r.header.seq = k.seq then .answered (answerTo r .seqConflict .nothing)
    else if r.header.seq = k.seq + 1#8 then .passed .fresh
    else .answered (answerTo r .seqError .nothing)

/-- An OPEN for a client open on the arriving port (R132): replay, then IN_USE without the takeover flag, then the sequence
check. -/
def screenReopen (k : Option Cache) (r : Request) : Screening :=
  if k.any (fun k => k.matches r) then screenSequence k r
  else if bodyTakeover r.body then screenSequence k r
  else .answered (answerTo r .inUse .nothing)

/-- A CLOSE for a CLOSED client (R134): a replay from the CLOSE cache on the port it belongs to, else NOT_OPEN. -/
def screenClosedClose (x : Client) (p : Port) (r : Request) : Screening :=
  match x.cache with
  | some k =>
    if k.kind = .close ∧ x.port = some p ∧ k.matches r = true then .answered k.replayed
    else .answered (answerTo r .notOpen .nothing)
  | none => .answered (answerTo r .notOpen .nothing)

/-- The screening of a well-formed client-level request that arrived on a port (R126, steps 2 and 3), against its client's
context. -/
def screen (x : Client) (p : Port) (r : Request) : Screening :=
  if x.state = .closed then
    match bodyKind r.body with
    | .openClient => .passed .plainOpen
    | .close => screenClosedClose x p r
    | _ => .answered (answerTo r .notOpen .nothing)
  else if x.port ≠ some p then
    match bodyKind r.body with
    | .openClient => .answered (answerTo r .inUse .nothing)
    | _ => .answered (answerTo r .badClient .nothing)
  else
    match bodyKind r.body with
    | .openClient => screenReopen x.cache r
    | _ => screenSequence x.cache r

/-- A request classed new, carried out by its own rules for its client on its port. -/
def carryNew (p : Port) (c : ClientId) (body : Body) (s : State) : Result :=
  match body with
  | .openClient branch priority flags => carryTakeover p c branch priority flags s
  | .close => carryClose c s
  | .acquire name mode limit => carryAcquire c name mode limit s
  | .release slot => carryRelease c slot s
  | .cancel slot => carryCancel c slot s
  | .renew slot => carryRenew c slot s
  | .renewAll => carryRenewAll c s
  | .fetch => carryFetch c s
  | .slotRead slot => carrySlotRead c slot s
  | .check name generation => carryCheck name generation s
  | .query name => carryQuery name s
  | .directory start => carryDirectory start s
  | .define d => carryDefine c d s
  | .amend a => carryAmend c a s
  | .retire name mode => carryRetire c name mode s
  | .seed value => carrySeed c value s

/-- An OPEN for a CLOSED client, carried out (R131). -/
def carryPlainOpen (p : Port) (c : ClientId) (body : Body) (s : State) : Result :=
  match body with
  | .openClient branch priority flags => carryOpen p c branch priority flags s
  | _ => refusal s .notOpen

/-- The cache write (R125, R129): all four items at once. -/
def State.writeCache (s : State) (r : Request) (a : Answer) : State :=
  s.setClient r.header.client { s.client r.header.client with
    cache := some { seq := r.header.seq, kind := bodyKind r.body, check := requestCheck r, answer := a } }

/-- A screened request carried out at its owner (R145): the tables afterwards and its answer. The answer is cached (R129), but
for the refusal of an OPEN for a CLOSED client (R131). -/
def carryScreened (k : Passage) (p : Port) (r : Request) (s : State) : State × Answer :=
  match k with
  | .plainOpen =>
    let x := carryPlainOpen p r.header.client r.body s
    let a := answerTo r x.2.1 x.2.2
    (if x.2.1 = .ok then x.1.writeCache r a else x.1, a)
  | .fresh =>
    let x := carryNew p r.header.client r.body s
    let a := answerTo r x.2.1 x.2.2
    (x.1.writeCache r a, a)

/-- A request screened, and carried out where its screening passes it on; an answer that the screening itself gives is not
cached (R129). -/
def carryOut (p : Port) (r : Request) (s : State) : State × Answer :=
  match screen (s.client r.header.client) p r with
  | .answered a => (s, a)
  | .passed k => carryScreened k p r s

/-- Does carrying out a screened request change whether its client is open? So do an OPEN for a CLOSED client and a CLOSE. -/
def Passage.rebinds (k : Passage) (r : Request) : Bool :=
  match k with
  | .plainOpen => true
  | .fresh => bodyKind r.body == .close

/-- The response slot of a port replaced. -/
def State.setResponse (s : State) (p : Port) (x : ResponseSlot) : State :=
  s.setPort p { s.port p with slot := x }

/-- The request that port `q` has in processing is carried out, its answer waiting to be placed, where it is a screened OPEN or
CLOSE of the client, whose context still is as its screening found it. -/
def State.carryEarlierOn (s : State) (c : ClientId) (q : Port) : State :=
  match (s.port q).slot with
  | .working (.screened r k) =>
    if r.header.client = c ∧ k.rebinds r = true ∧ screen (s.client c) q r = .passed k then
      (carryScreened k q r s).1.setResponse q (.working (.done (carryScreened k q r s).2))
    else s
  | .empty | .ready _ | .working (.handed _) | .working (.done _) => s

/-- What stands before the screening of a request for a client: an OPEN or CLOSE of that client screened earlier on another port
has been carried out, since each request is screened against the client as the one before it left it (R135; log entry 2). -/
def State.carryEarlier (s : State) (c : ClientId) : State := allPorts.foldl (fun t q => t.carryEarlierOn c q) s

/-- A request handed over is screened and carried out. -/
def State.carryHanded (s : State) (p : Port) (r : Request) : State × Answer :=
  carryOut p r (s.carryEarlier r.header.client)

/-- The request handed over on a port, where there is one, is screened (R126): answered by the screening, or passed on and left
to be carried out by an event of its own (R145). -/
def State.screenHanded (s : State) (p : Port) : State :=
  match (s.port p).slot with
  | .working (.handed r) =>
    match screen ((s.carryEarlier r.header.client).client r.header.client) p r with
    | .answered a => (s.carryEarlier r.header.client).setResponse p (.working (.done a))
    | .passed k => (s.carryEarlier r.header.client).setResponse p (.working (.screened r k))
  | .empty | .ready _ | .working (.screened _ _) | .working (.done _) => s

end Sys2Proof.Machine
end

