-- ==== Sys2Proof/Machine/Ports.lean ====
section
/-! DEFINITION. The port unit: the bits of a frame (R138), the end of a good frame (R143, R144, R149), a request taken into the response slot (R145), the error score
(R142, R147, R148), the fault report taken at the client table (R35), and a LINK_RESET taken (R150, R38). -/

namespace Sys2Proof.Machine

/-- A counter raised by 1 unless it holds 65535 (R155). -/
def bump (n : Half) : Half := if n = 65535#16 then n else n + 1#16

/-- A request was dropped as an overrun (R144). -/
def PortUnit.overrun (u : PortUnit) : PortUnit := { u with overruns := bump u.overruns }

/-- Does the response slot let a good frame's request in (R143)? EMPTY does, READY when the frame carried the answer whole. -/
def PortUnit.admits (u : PortUnit) (out : Outgoing) (len : Nat) : Bool :=
  match u.slot with
  | .empty => true
  | .ready _ => out.carriedWhole len
  | .working _ => false

/-- The bits of the frame in progress on a port are clocked in (R138). A frame-end command carries every bit of its frame, so
what the frame had received before is a part of them (log entry 8). -/
def State.clockIn (s : State) (p : Port) (bits : List Bool) : State :=
  match (s.port p).frame with
  | none => s
  | some f => s.setPort p { s.port p with frame := some { f with received := receive bits } }

/-- The frame in progress on a port ends and is good (R143, R144, R149), for every kind but LINK_RESET: dropped without count
in FAULTED; in UP the error score falls by 1, and the request is taken, by `taken`, or dropped as an overrun. A frame
that the port has not recognised the start of is ignored (R137, log entry 7). -/
def State.endGood (s : State) (p : Port) (taken : State → State) : State :=
  match (s.port p).frame with
  | none => s
  | some f =>
    match (s.port p).link with
    | .faulted => s.setPort p { s.port p with frame := none }
    | .up =>
      let u := { s.port p with frame := none, score := (s.port p).score - 1 }
      if u.admits f.outgoing f.received.count then taken (s.setPort p u) else s.setPort p u.overrun

/-- The end of a good frame of these bytes. -/
def State.goodFrame (s : State) (p : Port) (bytes : List Byte) (taken : State → State) : State :=
  (s.clockIn p (bitsOf bytes)).endGood p taken

/-- A request handed over is screened and carried out, and its answer awaits its placing (R145). -/
def State.process (s : State) (p : Port) (r : Request) : State :=
  (s.carryHanded p r).1.setResponse p (.working (.done (s.carryHanded p r).2))

/-- A client-level request taken by its port (R145): the slot becomes WORKING and the request is handed over; it is carried
out before the next command, or left for ANSWER_PLACED (log entry 1). -/
def State.take (s : State) (p : Port) (r : Request) (t : Timing) : State :=
  match t with
  | .later => s.setResponse p (.working (.handed r))
  | .atFrameEnd => (s.setResponse p (.working (.handed r))).process p r

/-- The end of a good frame that carries a client-level request. -/
def State.requestFrame (s : State) (p : Port) (r : Request) (t : Timing) : State :=
  s.goodFrame p (requestBytes r) (fun u => u.take p r t)

/-- A port after a bad frame (R142, R147, R148). -/
def PortUnit.bad (u : PortUnit) : PortUnit :=
  let v := { u with frame := none, badFrames := bump u.badFrames }
  match u.link with
  | .faulted => v
  | .up =>
    if u.score + Config.badFrameWeight < Config.faultScore then { v with score := u.score + Config.badFrameWeight }
    else { v with score := Config.faultScore, link := .faulted, faultReport := true }

/-- The frame in progress on a port ends and is bad (R142). A frame that the port has not recognised the start of is ignored. -/
def State.endBad (s : State) (p : Port) : State :=
  match (s.port p).frame with
  | none => s
  | some _ => s.setPort p (s.port p).bad

/-- The client's WAITING slot, of which it has at most one (R41). -/
def State.waitingSlot (s : State) (c : ClientId) : Option SlotId :=
  allSlots.find? (fun i => (s.slot c i).isWaiting)

/-- A port's fault taken for one client (R35): an OPEN client of the port loses its wait with cause LINK, with the follow-up
for that resource, and becomes SUSPECT. -/
def State.faultClient (s : State) (p : Port) (c : ClientId) : State :=
  if (s.client c).state = .opened ∧ (s.client c).port = some p then
    let t := match s.waitingSlot c with
      | some i =>
        match s.slot c i with
        | .waiting n _ _ => (s.endWait c i .link).followUp n
        | _ => s
      | none => s
    t.setClient c { t.client c with state := .suspect }
  else s

/-- A port's fault taken at the client table, client by client in ascending number (R35). -/
def State.suspendClients (s : State) (p : Port) : State :=
  allClients.foldl (fun t c => t.faultClient p c) (s.setPort p { s.port p with faultReport := false })

/-- A port's fault report taken at the client table (R35); nothing where no report is outstanding (log entry 10). The client
table screens the port's requests and takes its reports in the order in which the port made them (R145), so a request
handed over before the fault is screened before the fault is taken. -/
def State.takeFault (s : State) (p : Port) : State :=
  if (s.port p).faultReport then (s.screenHanded p).suspendClients p else s

/-- Is the client SUSPECT and bound to the port? -/
def State.suspectOn (s : State) (p : Port) (c : ClientId) : Bool :=
  (s.client c).state == .suspect && (s.client c).port == some p

/-- A SUSPECT client of the port returns to OPEN (R38). -/
def State.reopen (s : State) (p : Port) (c : ClientId) : State :=
  if s.suspectOn p c then s.setClient c { s.client c with state := .opened } else s

/-- An answer of the port unit itself: it echoes the sequence and kind bytes received (R156, R157). -/
def portAnswer (seq kind : Byte) (st : Status) (pl : Payload) : Answer :=
  { status := st, seqEcho := seq, kindEcho := kind, replay := false, payload := pl }

/-- A LINK_RESET taken, its frame already ended (R150, R38): the port UP with score 0, every SUSPECT client of the port
OPEN again, and the answer READY at once. A fault report not yet taken is taken before the link-reset report, since
the client table takes a port's reports in the order in which they were made (R145; DEDUCED, log entry 9). -/
def State.resetLink (s : State) (p : Port) (seq : Byte) : State :=
  let t := s.takeFault p
  let u := t.setPort p { t.port p with link := .up, score := 0 }
  let n := (allClients.filter (fun c => u.suspectOn p c)).length
  (allClients.foldl (fun v c => v.reopen p c) u).setResponse p
    (.ready (portAnswer seq (kindCode .linkReset) .ok (.count n)))

end Sys2Proof.Machine
end

