-- ==== Sys2Proof/Machine/Events.lean ====
section
/-! DEFINITION. The meanings of the events: the three deadlines (R53, R70, R81), the settle end (R94, R95), the lease clock
(R58, R59) and chip reset (R5, R21, R103, R115, R137). -/

namespace Sys2Proof.Machine

/-- A WAITING slot whose raised wait deadline is taken ends TIMEOUT, with the follow-up (R53). -/
def State.waitDeadline (s : State) (c : ClientId) (i : SlotId) : State :=
  match s.slot c i with
  | .waiting n _ (some d) => if d.raised then (s.endWait c i .timeout).followUp n else s
  | _ => s

/-- A HELD or RECALLED slot whose raised lease deadline is taken ends EXPIRED, with the follow-up (R70). -/
def State.expire (s : State) (c : ClientId) (i : SlotId) : State :=
  match s.slot c i with
  | .held n _ _ lease => if lease.raised then (s.endHolding c i .expired).followUp n else s
  | .recalled n _ _ lease _ => if lease.raised then (s.endHolding c i .expired).followUp n else s
  | _ => s

/-- A RECALLED slot whose raised recall deadline is taken ends REVOKED, with the follow-up (R81). -/
def State.revoke (s : State) (c : ClientId) (i : SlotId) : State :=
  match s.slot c i with
  | .recalled n _ _ _ recallBy => if recallBy.raised then (s.endHolding c i .revoked).followUp n else s
  | _ => s

/-- WAIT_DEADLINE (R53): nothing where no such event is raised for the deadline the slot holds (R30, R59). -/
def execWaitDeadline (c : ClientId) (i : SlotId) (s : State) : Host.Outcome State Fault Refusal :=
  .next (s.waitDeadline c i)

/-- EXPIRY (R70): nothing where no such event is raised for the deadline the slot holds (R30, R59). -/
def execExpiry (c : ClientId) (i : SlotId) (s : State) : Host.Outcome State Fault Refusal := .next (s.expire c i)

/-- REVOCATION (R81): nothing where no such event is raised for the deadline the slot holds (R30, R59). -/
def execRevocation (c : ClientId) (i : SlotId) (s : State) : Host.Outcome State Fault Refusal :=
  .next (s.revoke c i)

/-- The GATING holder of a record, if it has one (R94). -/
def State.gatingHolder (s : State) (r : Record) : Option Holder :=
  r.holders.find? (fun h => (s.slot h.client h.slot).isGating)

/-- A settle end for a channel bound to a resource (R94): its GATING holder's branch is joined, the slot becomes HELD and is
posted ordinary, and recall evaluation runs; without one the channel becomes DISCONNECTED. -/
def State.settleBound (s : State) (g : ChannelId) (n : Name) : State :=
  match (s.find n).bind s.gatingHolder with
  | some h =>
    match s.slot h.client h.slot with
    | .gating m md gen =>
      ((((s.connect g (s.client h.client).branch).setSlot h.client h.slot
          (.held m md gen (s.after (s.termMs n)))).post h.client h.slot .ordinary).evalRecall n)
    | _ => s
  | none => s.setChannel g { s.channel g with state := .disconnected }

/-- The settle end of a channel (R94 when it is bound, R95 when it is not). -/
def State.settleEnds (s : State) (g : ChannelId) : State :=
  match (s.channel g).binding with
  | some n => s.settleBound g n
  | none => s.setChannel g { s.channel g with state := .disconnected, deadTime := none }

/-- SETTLE_END (R93, R94, R95): the settle timer of a SETTLING channel counts `us` microseconds more, and the settle ends when its
count reaches the dead time. Nothing on a channel whose timer is idle. DESIGN CHOICE (log entry 6). -/
def execSettleEnd (g : ChannelId) (us : Nat) (s : State) : Host.Outcome State Fault Refusal :=
  .next (match (s.channel g).state with
    | .settling elapsed =>
      if (s.deadTimeOf g).toNat ≤ elapsed + us then s.settleEnds g
      else s.setChannel g { s.channel g with state := .settling (elapsed + us) }
    | .disconnected => s
    | .connected _ => s)

/-- CHIP_RESET: R5, R21, R58, R103, R115, R137. The commands waiting are the environment's and stay (log entry 4). -/
def execChipReset (s : State) : Host.Outcome State Fault Refusal :=
  .next { State.reset with pending := s.pending, inReset := true }

/-- A deadline when the lease clock advances to `now`: its event is raised when it equals the new value (R59). -/
def Deadline.tick (now : Clock) (d : Deadline) : Deadline :=
  if d.value = now then { d with raised := true } else d

/-- The deadlines of a slot when the lease clock advances to `now`. -/
def Slot.tick (now : Clock) : Slot → Slot
  | .waiting n m w => .waiting n m (w.map (Deadline.tick now))
  | .held n m g l => .held n m g (l.tick now)
  | .recalled n m g l r => .recalled n m g (l.tick now) (r.tick now)
  | .free => .free
  | .gating n m g => .gating n m g
  | .ended n m g c => .ended n m g c

/-- The lease clock at a new value, with a deadline event raised for every armed deadline equal to it (R59). -/
def State.clockAt (s : State) (now : Clock) : State :=
  { s with
    clock := now
    clients := mapVector (fun x => { x with slots := mapVector (Slot.tick now) x.slots }) s.clients }

/-- LEASE_CLOCK_TICK (R58, R59): the 40-bit clock advances by one; it does not count before the end of a reset. -/
def execLeaseClockTick (s : State) : Host.Outcome State Fault Refusal :=
  .next (if s.inReset then s else s.clockAt (s.clock + 1#40))

/-- END_OF_RESET (R137, R166). -/
def execEndOfReset (s : State) : Host.Outcome State Fault Refusal := .next { s with inReset := false }

end Sys2Proof.Machine
end

