-- ==== Sys2Proof/Machine/Link.lean ====
section
/-! DEFINITION. The meanings of the port-level commands: frames that begin, end bad, end unclocked; POLL, PROBE, LINK_RESET, a
malformed request; the placing of an answer; the port's fault. -/

namespace Sys2Proof.Machine

/-- FRAME_START (R138, R139): the outgoing content is fixed from the link state and the response slot, and nothing is received yet. Not recognised before the
end of a reset (R137); without effect while the line is already active (R138; log entry 7). -/
def execFrameStart (p : Port) (s : State) : Host.Outcome State Fault Refusal :=
  .next (if s.inReset ∨ (s.port p).frame.isSome then s
    else s.setPort p { s.port p with frame := some { outgoing := (s.port p).outgoing, received := noReception } })

/-- BAD_FRAME (R142, R147, R148). -/
def execBadFrame (f : RawFrame) (s : State) : Host.Outcome State Fault Refusal :=
  .next ((s.clockIn f.port f.bits).endBad f.port)

/-- UNKNOWN_KIND (R126 step 1, R154, R157): BAD_REQUEST, with the sequence and kind bytes as received. -/
def execUnknownKind (p : Port) (h : Header) (kind : Byte) (payload : List Byte) (s : State) :
    Host.Outcome State Fault Refusal :=
  .next (s.goodFrame p (headedBytes h kind payload) (fun u =>
    u.setResponse p (.working (.done (portAnswer h.seq kind .badRequest .nothing)))))

/-- POLL (R143, R152): a READY answer carried whole is consumed. -/
def execPoll (p : Port) (f : PollFrame) (s : State) : Host.Outcome State Fault Refusal :=
  .next (s.goodFrame p (headedBytes f.header (kindCode .poll) f.padding) (fun u => u.setResponse p .empty))

/-- PROBE (R153): the values are read when it is taken, after its own frame has lowered the score. -/
def execProbe (p : Port) (h : Header) (s : State) : Host.Outcome State Fault Refusal :=
  .next (s.goodFrame p (headedBytes h (kindCode .probe) []) (fun u =>
    u.setResponse p (.working (.done (portAnswer h.seq (kindCode .probe) .ok (.probe (u.viewProbe p)))))))

/-- LINK_RESET (R143, R150, R151): in FAULTED it is taken unless the slot is WORKING, when it is dropped and counted. -/
def execLinkReset (p : Port) (h : Header) (s : State) : Host.Outcome State Fault Refusal :=
  .next (match (s.port p).frame, (s.port p).link with
    | none, _ => s
    | some _, .up => s.goodFrame p (headedBytes h (kindCode .linkReset) []) (fun u => u.resetLink p h.seq)
    | some _, .faulted =>
      match (s.port p).slot with
      | .working _ => s.setPort p { (s.port p).overrun with frame := none }
      | .empty => (s.setPort p { s.port p with frame := none }).resetLink p h.seq
      | .ready _ => (s.setPort p { s.port p with frame := none }).resetLink p h.seq)

/-- ANSWER_PLACED (R145): the answer of the request in processing is placed, WORKING to READY, whatever the link state (R36); a
request not yet carried out is carried out first, after its screening where it has not been screened. Nothing where no
request is in processing. -/
def execAnswerPlaced (p : Port) (s : State) : Host.Outcome State Fault Refusal :=
  .next (match (s.port p).slot with
    | .working (.done a) => s.setResponse p (.ready a)
    | .working (.screened r k) => (carryScreened k p r s).1.setResponse p (.ready (carryScreened k p r s).2)
    | .working (.handed r) => (s.carryHanded p r).1.setResponse p (.ready (s.carryHanded p r).2)
    | .empty => s
    | .ready _ => s)

/-- PORT_FAULT (R35). -/
def execPortFault (p : Port) (s : State) : Host.Outcome State Fault Refusal := .next (s.takeFault p)

/-- UNCLOCKED_FRAME (R138): the frame is not classed, and its outgoing content is discarded unsent. -/
def execUnclockedFrame (p : Port) (s : State) : Host.Outcome State Fault Refusal :=
  .next (s.setPort p { s.port p with frame := none })

end Sys2Proof.Machine
end

