-- ==== Sys2Proof/Machine/Requests.lean ====
section
/-! DEFINITION. The meanings of the client-level request commands: the end of a good frame that carries the request. What the
request then does stands in its own definition: `carryOpen`, `carryTakeover`, `carryClose`, `carryAcquire` and the others. -/

namespace Sys2Proof.Machine

/-- OPEN (R22, R23, R24, R131, R132). -/
def execOpen (p : Port) (h : Header) (branch priority : Byte) (admin : Bool) (reserved : BitVec 6) (t : Timing)
    (s : State) : Host.Outcome State Fault Refusal :=
  .next (s.requestFrame p ⟨h, .openClient branch priority (openFlags admin false reserved)⟩ t)

/-- TAKEOVER (R25, R133); for a CLOSED client the flag is not examined and the request is a plain OPEN (R22). -/
def execTakeover (p : Port) (h : Header) (branch priority : Byte) (admin : Bool) (reserved : BitVec 6) (t : Timing)
    (s : State) : Host.Outcome State Fault Refusal :=
  .next (s.requestFrame p ⟨h, .openClient branch priority (openFlags admin true reserved)⟩ t)

/-- CLOSE (R26, R134). -/
def execClose (p : Port) (h : Header) (t : Timing) (s : State) : Host.Outcome State Fault Refusal :=
  .next (s.requestFrame p ⟨h, .close⟩ t)

/-- ACQUIRE (R39 to R51). -/
def execAcquire (p : Port) (h : Header) (name : Name) (mode : Byte) (limit : Half) (t : Timing) (s : State) :
    Host.Outcome State Fault Refusal :=
  .next (s.requestFrame p ⟨h, .acquire name mode limit⟩ t)

/-- RELEASE (R66 to R69). -/
def execRelease (p : Port) (h : Header) (slot : Byte) (t : Timing) (s : State) :
    Host.Outcome State Fault Refusal :=
  .next (s.requestFrame p ⟨h, .release slot⟩ t)

/-- CANCEL (R52). -/
def execCancel (p : Port) (h : Header) (slot : Byte) (t : Timing) (s : State) :
    Host.Outcome State Fault Refusal :=
  .next (s.requestFrame p ⟨h, .cancel slot⟩ t)

/-- RENEW (R62, R63). -/
def execRenew (p : Port) (h : Header) (slot : Byte) (t : Timing) (s : State) : Host.Outcome State Fault Refusal :=
  .next (s.requestFrame p ⟨h, .renew slot⟩ t)

/-- RENEW_ALL (R64). -/
def execRenewAll (p : Port) (h : Header) (t : Timing) (s : State) : Host.Outcome State Fault Refusal :=
  .next (s.requestFrame p ⟨h, .renewAll⟩ t)

/-- FETCH (R110). -/
def execFetch (p : Port) (h : Header) (t : Timing) (s : State) : Host.Outcome State Fault Refusal :=
  .next (s.requestFrame p ⟨h, .fetch⟩ t)

/-- SLOT_READ (R112). -/
def execSlotRead (p : Port) (h : Header) (slot : Byte) (t : Timing) (s : State) :
    Host.Outcome State Fault Refusal :=
  .next (s.requestFrame p ⟨h, .slotRead slot⟩ t)

/-- CHECK (R119). -/
def execCheck (p : Port) (h : Header) (name : Name) (generation : Gen) (t : Timing) (s : State) :
    Host.Outcome State Fault Refusal :=
  .next (s.requestFrame p ⟨h, .check name generation⟩ t)

/-- QUERY (R121). -/
def execQuery (p : Port) (h : Header) (name : Name) (t : Timing) (s : State) : Host.Outcome State Fault Refusal :=
  .next (s.requestFrame p ⟨h, .query name⟩ t)

/-- DIRECTORY (R123). -/
def execDirectory (p : Port) (h : Header) (start : Name) (t : Timing) (s : State) :
    Host.Outcome State Fault Refusal :=
  .next (s.requestFrame p ⟨h, .directory start⟩ t)

/-- DEFINE (R6 to R8). -/
def execDefine (p : Port) (h : Header) (d : DefineParams) (t : Timing) (s : State) :
    Host.Outcome State Fault Refusal :=
  .next (s.requestFrame p ⟨h, .define d⟩ t)

/-- AMEND (R6, R9 to R11). -/
def execAmend (p : Port) (h : Header) (a : AmendParams) (t : Timing) (s : State) :
    Host.Outcome State Fault Refusal :=
  .next (s.requestFrame p ⟨h, .amend a⟩ t)

/-- RETIRE_GRACEFUL (R6, R12 to R14): mode byte 0, or a mode byte that R12 refuses. -/
def execRetireGraceful (p : Port) (h : Header) (name : Name) (mode : Byte) (t : Timing) (s : State) :
    Host.Outcome State Fault Refusal :=
  .next (s.requestFrame p ⟨h, .retire name mode⟩ t)

/-- RETIRE_IMMEDIATE (R6, R12, R16): mode byte 1. -/
def execRetireImmediate (p : Port) (h : Header) (name : Name) (t : Timing) (s : State) :
    Host.Outcome State Fault Refusal :=
  .next (s.requestFrame p ⟨h, .retire name 1#8⟩ t)

/-- SEED (R6, R117). -/
def execSeed (p : Port) (h : Header) (value : Gen) (t : Timing) (s : State) : Host.Outcome State Fault Refusal :=
  .next (s.requestFrame p ⟨h, .seed value⟩ t)

end Sys2Proof.Machine
end

