-- ==== Sys2Proof/Machine/Dispatch.lean ====
section
/-! DEFINITION. The meaning of every command, one arm for each row of spec/opcode_table.json. -/

namespace Sys2Proof.Machine

def exec (i : Instr) (s : State) : Host.Outcome State Fault Refusal :=
  match i with
  | .frameStart p => Sys2Proof.Machine.execFrameStart p s
  | .badFrame f => Sys2Proof.Machine.execBadFrame f s
  | .unknownKind p h kind payload => Sys2Proof.Machine.execUnknownKind p h kind payload s
  | .poll p f => Sys2Proof.Machine.execPoll p f s
  | .probe p h => Sys2Proof.Machine.execProbe p h s
  | .linkReset p h => Sys2Proof.Machine.execLinkReset p h s
  | .openClient p h branch priority admin reserved t => Sys2Proof.Machine.execOpen p h branch priority admin reserved t s
  | .takeover p h branch priority admin reserved t => Sys2Proof.Machine.execTakeover p h branch priority admin reserved t s
  | .close p h t => Sys2Proof.Machine.execClose p h t s
  | .acquire p h name mode limit t => Sys2Proof.Machine.execAcquire p h name mode limit t s
  | .release p h slot t => Sys2Proof.Machine.execRelease p h slot t s
  | .cancel p h slot t => Sys2Proof.Machine.execCancel p h slot t s
  | .renew p h slot t => Sys2Proof.Machine.execRenew p h slot t s
  | .renewAll p h t => Sys2Proof.Machine.execRenewAll p h t s
  | .fetch p h t => Sys2Proof.Machine.execFetch p h t s
  | .slotRead p h slot t => Sys2Proof.Machine.execSlotRead p h slot t s
  | .check p h name generation t => Sys2Proof.Machine.execCheck p h name generation t s
  | .query p h name t => Sys2Proof.Machine.execQuery p h name t s
  | .directory p h start t => Sys2Proof.Machine.execDirectory p h start t s
  | .define p h d t => Sys2Proof.Machine.execDefine p h d t s
  | .amend p h a t => Sys2Proof.Machine.execAmend p h a t s
  | .retireGraceful p h name mode t => Sys2Proof.Machine.execRetireGraceful p h name mode t s
  | .retireImmediate p h name t => Sys2Proof.Machine.execRetireImmediate p h name t s
  | .seed p h value t => Sys2Proof.Machine.execSeed p h value t s
  | .answerPlaced p => Sys2Proof.Machine.execAnswerPlaced p s
  | .portFault p => Sys2Proof.Machine.execPortFault p s
  | .waitDeadline c j => Sys2Proof.Machine.execWaitDeadline c j s
  | .expiry c j => Sys2Proof.Machine.execExpiry c j s
  | .revocation c j => Sys2Proof.Machine.execRevocation c j s
  | .settleEnd g us => Sys2Proof.Machine.execSettleEnd g us s
  | .chipReset => Sys2Proof.Machine.execChipReset s
  | .leaseClockTick => Sys2Proof.Machine.execLeaseClockTick s
  | .unclockedFrame p => Sys2Proof.Machine.execUnclockedFrame p s
  | .endOfReset => Sys2Proof.Machine.execEndOfReset s

end Sys2Proof.Machine
end

