-- ==== Sys2Proof/Safety.lean ====
section
/-! DEFINITION. What counts as a safe state: the laws of the device that the rules name, each as a predicate on a state whose
quantifiers range over the units and the lists of that state. The twelfth law is about single steps and stands with the
statements. -/

namespace Sys2Proof.Safety

open Sys2Proof.Machine

/-! ### The directory -/

/-- A record's fields lie in the ranges of Table 1-1, and a gated record has share limit 1 (R7, R9, R90). -/
def FieldsLawful (r : Record) : Prop :=
  r.name ≠ 0#16 ∧ r.leaseTerm ≠ 0#16 ∧ 1 ≤ r.shareLimit ∧ r.shareLimit ≤ 8 ∧
    (r.gate.isSome = true → r.shareLimit = 1)

/-- The first law (R2): no more holders than the share limit, and an EXCLUSIVE holder alone. -/
def HoldersLawful (r : Record) : Prop :=
  r.holders.length ≤ r.shareLimit ∧ ∀ h ∈ r.holders, h.mode = .exclusive → r.holders.length = 1

/-- The sixth law (R44): the wait queue stands in order of priority, most urgent first. -/
def QueueOrdered (r : Record) : Prop := r.waiters.Pairwise (fun a b => a.priority ≤ b.priority)

/-- The seventh law (R45): the head of a non-empty wait queue is not compatible. -/
def HeadIncompatible (r : Record) : Prop := ∀ w ∈ r.waiters.head?, r.compatible w.mode = false

/-- The directory: ascending distinct names, at most 128 records (R4), each with lawful fields, the first and the sixth
law, and no waiter while DRAINING (R14). -/
def DirectoryLawful (s : State) : Prop :=
  s.records.Pairwise (fun a b => a.name.toNat < b.name.toNat) ∧ s.records.length ≤ Config.directoryCapacity ∧
    ∀ r ∈ s.records, FieldsLawful r ∧ HoldersLawful r ∧ QueueOrdered r ∧ (r.state = .draining → r.waiters = [])

/-- The seventh law for every record (R45), and the tenth (R15): a DRAINING record has a holder. -/
def RecordsSettled (s : State) : Prop :=
  ∀ r ∈ s.records, HeadIncompatible r ∧ (r.state = .draining → r.holders ≠ [])

/-! ### The ports and the clients -/

/-- What a frame has received (R138): fewer than eight bits of an incomplete byte, and the first 64 of the bytes counted. -/
def ReceptionLawful (r : Reception) : Prop := r.bits.length < 8 ∧ r.bytes.length = min keptBytes r.count

/-- The error score is at most 32, a port is FAULTED exactly at 32 (R147, R148), only a FAULTED port has a fault report
outstanding, and a frame in progress has kept the first 64 of its bytes (R138). -/
def PortsLawful (s : State) : Prop :=
  ∀ p : Port, (s.port p).score ≤ Config.faultScore ∧
    ((s.port p).link = .faulted ↔ (s.port p).score = Config.faultScore) ∧
    ((s.port p).faultReport = true → (s.port p).link = .faulted) ∧
    ∀ f ∈ (s.port p).frame, ReceptionLawful f.received

/-- The eleventh law, first half (R35, R38): an open client is bound to a port and has a cache (R125); it is SUSPECT only
on a FAULTED port, and OPEN on a FAULTED port only while the port's fault report has not been taken. -/
def ClientsLawful (s : State) : Prop :=
  ∀ c : ClientId, (s.client c).state ≠ .closed →
    (s.client c).cache.isSome = true ∧
    ∃ p : Port, (s.client c).port = some p ∧
      ((s.client c).state = .suspect → (s.port p).link = .faulted) ∧
      ((s.client c).state = .opened → (s.port p).link = .faulted → (s.port p).faultReport = true)

/-- The request that a port holds screened and not yet carried out. -/
def screenedOn (u : PortUnit) : Option (Request × Passage) :=
  match u.slot with
  | .working (.screened r k) => some (r, k)
  | .empty | .ready _ | .working (.handed _) | .working (.done _) => none

/-- A request screened and not yet carried out stands on a FAULTED port whose report has been taken (R145, R36), and its
client's context still is as its screening found it (R126); no two ports hold one for one client (R135). -/
def ScreenedLawful (s : State) : Prop :=
  ∀ p : Port, ∀ x ∈ screenedOn (s.port p),
    (s.port p).link = .faulted ∧ (s.port p).faultReport = false ∧
      screen (s.client x.1.header.client) p x.1 = .passed x.2 ∧
      ∀ q : Port, ∀ y ∈ screenedOn (s.port q), y.1.header.client = x.1.header.client → q = p

/-- The second law's first half and the eleventh law's second half (R41, R35): a client has at most one WAITING slot, and a
client that is not OPEN has none. -/
def WaitsLawful (s : State) : Prop :=
  ∀ c : ClientId,
    (∀ i j : SlotId, (s.slot c i).isWaiting = true → (s.slot c j).isWaiting = true → i = j) ∧
    ((s.client c).state ≠ .opened → ∀ i : SlotId, (s.slot c i).isWaiting = false)

/-! ### Generations -/

/-- The fifth law (R116): the generations of holding slots are distinct and never 0. -/
def GenerationsDistinct (s : State) : Prop :=
  ∀ (c : ClientId) (i : SlotId), ∀ x ∈ (s.slot c i).holding, x.2.2 ≠ 0#32 ∧
    ∀ (d : ClientId) (j : SlotId), (s.slot d j).holdingGen = some x.2.2 → c = d ∧ i = j

/-- While the generation counter is 0, no slot is holding (R115, R117). -/
def CounterLawful (s : State) : Prop :=
  s.generation = 0#32 → ∀ (c : ClientId) (i : SlotId), (s.slot c i).holdingGen = none

/-! ### Slots, lists and change queues -/

/-- The ninth law (R104), for every client: at most one entry for a slot, the urgent entries first, and every ENDED slot with
an entry. -/
def ChangeQueuesLawful (s : State) : Prop :=
  ∀ c : ClientId,
    ((s.client c).queue.map (·.slot)).Nodup ∧
    (s.client c).queue.Pairwise (fun a b => b.cls = .urgent → a.cls = .urgent) ∧
    ∀ i : SlotId, (s.slot c i).isEnded = true → s.changedMark c i = true

/-- A CLOSED client has every slot FREE and an empty change queue (R20), and a slot has a change entry only while it is HELD,
RECALLED or ENDED (R108). -/
def ClosedAndMarked (s : State) : Prop :=
  ∀ c : ClientId,
    ((s.client c).state = .closed → (s.client c).queue = [] ∧ ∀ i : SlotId, s.slot c i = .free) ∧
    ∀ i : SlotId, s.changedMark c i = true → (s.slot c i).leased = true ∨ (s.slot c i).isEnded = true

/-- The third law (R29), from slots to lists: a WAITING slot stands in its resource's wait queue with its client's priority,
a holding slot in its resource's holder list. -/
def SlotsListed (s : State) : Prop :=
  ∀ (c : ClientId) (i : SlotId),
    (∀ x ∈ (s.slot c i).wait,
      ∃ r ∈ s.records, r.name = x.1 ∧ (⟨c, i, x.2, (s.client c).priority⟩ : Waiter) ∈ r.waiters) ∧
    (∀ x ∈ (s.slot c i).holding, ∃ r ∈ s.records, r.name = x.1 ∧ (⟨c, i, x.2.1, x.2.2⟩ : Holder) ∈ r.holders)

/-- The third law (R29), from lists to slots: every entry is such a slot, and no slot stands twice in a list. -/
def ListsBacked (s : State) : Prop :=
  ∀ r ∈ s.records,
    (∀ w ∈ r.waiters, (s.slot w.client w.slot).wait = some (r.name, w.mode) ∧
      w.priority = (s.client w.client).priority) ∧
    (∀ h ∈ r.holders, (s.slot h.client h.slot).holding = some (r.name, h.mode, h.generation)) ∧
    (r.waiters.map (fun w => (w.client, w.slot))).Nodup ∧ (r.holders.map (fun h => (h.client, h.slot))).Nodup

/-- The slots and the lists agree: the third law, with what keeps it true from step to step. -/
def ListsAgree (s : State) : Prop :=
  DirectoryLawful s ∧ SlotsListed s ∧ ListsBacked s ∧ ClosedAndMarked s ∧ ChangeQueuesLawful s ∧ RecordsSettled s

/-! ### Ranks, gates and recalls -/

/-- The second law (R41, R42): the resource a client waits for ranks above that of each other live slot of the client, and
no two live slots of a client name one resource. -/
def RanksLawful (s : State) : Prop :=
  ∀ (c : ClientId) (i j : SlotId), i ≠ j →
    (s.slot c i).liveName ≠ none → (s.slot c j).liveName ≠ none →
      (s.slot c i).liveName ≠ (s.slot c j).liveName ∧
        ((s.slot c i).isWaiting = true →
          ∀ r ∈ s.records, ∀ q ∈ s.records,
            (s.slot c i).liveName = some r.name → (s.slot c j).liveName = some q.name → q.rank < r.rank)

/-- Is a dead time 1-1000 us (Table 6-1)? -/
def deadTimeInRange (d : Half) : Bool := decide (1 ≤ d.toNat) && decide (d.toNat ≤ 1000)

/-- The fourth law (R102) with the facts beside it: a channel is bound to the record that names it and only then; it is
CONNECTED to branch b exactly when its resource has a HELD or RECALLED holder on branch b; a GATING slot's channel is
SETTLING; a bound or settling channel has a dead time of 1-1000. -/
def GatesLawful (s : State) : Prop :=
  (∀ g : ChannelId, (s.channel g).binding ≠ none →
    ∃ r ∈ s.records, (s.channel g).binding = some r.name ∧ r.gate = some g) ∧
  (∀ r ∈ s.records, ∀ g ∈ r.gate, (s.channel g).binding = some r.name) ∧
  (∀ (g : ChannelId) (b : Branch), (s.channel g).state = .connected b ↔
    ∃ r ∈ s.records, r.gate = some g ∧
      ∃ h ∈ r.holders, (s.slot h.client h.slot).leased = true ∧ (s.client h.client).branch = b) ∧
  (∀ r ∈ s.records, ∀ h ∈ r.holders, (s.slot h.client h.slot).isGating = true →
    ∃ g ∈ r.gate, (s.channel g).isSettling = true) ∧
  (∀ g : ChannelId, (s.channel g).binding.isSome = true ∨ (s.channel g).isSettling = true →
    (s.channel g).deadTime.any deadTimeInRange = true)

/-- The eighth law (R78): a RECALLED holder is strictly less urgent than its resource's head waiter, and the recall grace is
not 0. -/
def RecallsLawful (s : State) : Prop :=
  ∀ r ∈ s.records, ∀ h ∈ r.holders, (s.slot h.client h.slot).isRecalled = true →
    r.recallGrace ≠ 0#16 ∧ ∃ w ∈ r.waiters.head?, w.priority < (s.client h.client).priority

/-- Every law of a state together. -/
def Lawful (s : State) : Prop :=
  ListsAgree s ∧ PortsLawful s ∧ ClientsLawful s ∧ WaitsLawful s ∧ GenerationsDistinct s ∧ CounterLawful s ∧
    RanksLawful s ∧ GatesLawful s ∧ RecallsLawful s ∧ ScreenedLawful s

end Sys2Proof.Safety
end

