-- ==== Sys2Proof/Certificates/Slice0/Obligations.lean ====
section
/-! DEFINITION. The statements for the provers. -/

namespace Sys2Proof.Claims

open Sys2Proof.Machine

/-! ### Words of the statements -/

/-- The request of a client-level request command, with its port and the time at which it is carried out. -/
def clientRequest (i : Instr) : Option (Port × Request × Timing) :=
  match instrPort i, instrRequest i with
  | some (p, t), some r => some (p, r, t)
  | _, _ => none

/-- The port and the length of the good frame whose end a command is. -/
def goodFrame : Instr → Option (Port × Nat)
  | .unknownKind p _ _ payload => some (p, payload.length + 5)
  | .poll p f => some (p, f.padding.length + 5)
  | .probe p _ => some (p, 5)
  | .linkReset p _ => some (p, 5)
  | i => (clientRequest i).map (fun x => (x.1, requestLength x.2.1))

/-- The port on which a command is an event, none for the deadlines, the settle end, the clock and the reset. -/
def portOf : Instr → Option Port
  | .frameStart p => some p
  | .badFrame f => some f.port
  | .answerPlaced p => some p
  | .portFault p => some p
  | .unclockedFrame p => some p
  | i => (goodFrame i).map (·.1)

/-- R143: the request of a good frame of `len` bytes that ends now is taken: the port is UP, and its slot is EMPTY, or READY
with an answer that the frame carried whole. -/
def Taken (s : State) (p : Port) (len : Nat) : Prop :=
  (s.port p).link = .up ∧
    (((s.port p).slot = .empty ∧ (s.port p).frame ≠ none) ∨
      ∃ a f, (s.port p).slot = .ready a ∧ (s.port p).frame = some f ∧ f.outgoing = .answer a ∧ answerLength a ≤ len)

/-- R143: the request of a good frame of `len` bytes that ends now is dropped as an overrun: the port is UP, and its slot is
WORKING, or READY and the frame did not carry the answer whole. -/
def Overrun (s : State) (p : Port) (len : Nat) : Prop :=
  (s.port p).link = .up ∧
    ∃ f, (s.port p).frame = some f ∧
      ((∃ w, (s.port p).slot = .working w) ∨
        ∃ a, (s.port p).slot = .ready a ∧ ∀ b, f.outgoing = .answer b → len < answerLength b)

/-- A counter raised by 1 unless it holds 65535 (R155). -/
def counted (n : Half) : Half := if n = 65535#16 then 65535#16 else n + 1#16

/-- The port unit when a good frame in UP has ended: the frame gone, the score lowered by 1, the response slot as given. -/
def afterGood (u : PortUnit) (x : ResponseSlot) : PortUnit :=
  { u with frame := none, score := u.score - 1, slot := x }

/-- The tables `t` with the good frame on the port ended, and the answer of its request complete. -/
def answered (t : State) (p : Port) (a : Answer) : State :=
  t.setPort p (afterGood (t.port p) (.working (.done a)))

/-- The answer to a request, with the REPLAY flag clear. -/
def answerFor (r : Request) (st : Status) (pl : Payload) : Answer :=
  { status := st, seqEcho := r.header.seq, kindEcho := kindCode (bodyKind r.body), replay := false, payload := pl }

/-- The tables `t` after a request and its answer are written into its client's cache. -/
def cached (t : State) (r : Request) (a : Answer) : State :=
  t.setClient r.header.client { t.client r.header.client with
    cache := some { seq := r.header.seq, kind := bodyKind r.body, check := requestCheck r, answer := a } }

/-- What a request classed new leaves: the tables `t`, its answer in the cache (R129), and the answer on its port. -/
def completed (t : State) (p : Port) (r : Request) (st : Status) (pl : Payload) : State :=
  answered (cached t r (answerFor r st pl)) p (answerFor r st pl)

/-- The screening classes the request new: its client is open on the port, and its sequence number follows the cached one
(R126, R127). -/
def Fresh (s : State) (p : Port) (r : Request) : Prop :=
  (s.client r.header.client).state ≠ .closed ∧ (s.client r.header.client).port = some p ∧
    ∃ k, (s.client r.header.client).cache = some k ∧ r.header.seq = k.seq + 1#8

/-- The request is taken at the end of its frame and classed new. -/
def New (s : State) (p : Port) (r : Request) : Prop := Taken s p (requestLength r) ∧ Fresh s p r

/-- What a request classed new leaves when its answer is placed: the tables `t`, its answer in the cache (R129), and the answer
READY on its port. -/
def placed (t : State) (p : Port) (r : Request) (st : Status) (pl : Payload) : State :=
  (cached t r (answerFor r st pl)).setPort p { t.port p with slot := .ready (answerFor r st pl) }

/-- A request classed new, which the command `i` brings, leaves the tables `t` and is answered so: at the end of its frame, where
its port takes it there; and at ANSWER_PLACED, in either link state, where it was handed over before, or was screened
before its port's fault was taken (R36, R145). -/
def Completes (i : Instr) (s : State) (p : Port) (r : Request) (t : State) (st : Status) (pl : Payload) : Prop :=
  (Taken s p (requestLength r) → exec i s = .next (completed t p r st pl)) ∧
  ((s.port p).slot = .working (.handed r) → exec (.answerPlaced p) s = .next (placed t p r st pl)) ∧
  ((s.port p).slot = .working (.screened r .fresh) → exec (.answerPlaced p) s = .next (placed t p r st pl))

/-- The screening of the request on the port answers it with `a`, and nothing of it is carried out or cached: at the end of its
frame, where its port takes it there; and where it was handed over before, at ANSWER_PLACED and before the port's fault is
taken (R126, R145). What stands before the screening has been carried out (R135, log entry 2). -/
def ScreenedOff (s : State) (p : Port) (r : Request) (a : Answer) : Prop :=
  let u := s.carryEarlier r.header.client
  (∀ i, clientRequest i = some (p, r, .atFrameEnd) → Taken s p (requestLength r) → exec i s = .next (answered u p a)) ∧
  ((s.port p).slot = .working (.handed r) →
    exec (.answerPlaced p) s = .next (u.setPort p { s.port p with slot := .ready a }) ∧
      s.screenHanded p = u.setPort p { s.port p with slot := .working (.done a) })

/-- The screening of the request on the port, where it was handed over before, passes it on to be carried out (R126, R145). -/
def ScreenedOn (s : State) (p : Port) (r : Request) (k : Passage) : Prop :=
  (s.port p).slot = .working (.handed r) →
    s.screenHanded p = (s.carryEarlier r.header.client).setPort p { s.port p with slot := .working (.screened r k) }

/-- The first of some checks that fails gives the status. -/
def FirstFailing : List (Prop × Status) → Status → Prop
  | [], _ => False
  | (fails, st) :: rest, x => (fails ∧ x = st) ∨ (¬ fails ∧ FirstFailing rest x)

/-- None of some checks fails. -/
def AllPass (checks : List (Prop × Status)) : Prop := ∀ c ∈ checks, ¬ c.1

/-- The number of a client's slots with a property. -/
def slotCount (s : State) (c : ClientId) (f : Slot → Bool) : Nat :=
  ((List.finRange 8).filter (fun i => f (s.slot c i))).length

/-- The lease deadline that a grant, a settle end or a renewal writes now (R60, R61). -/
def leaseEnd (s : State) (r : Record) : Deadline :=
  { value := s.clock + BitVec.ofNat 40 (r.leaseTerm.toNat * 10), raised := false }

/-- A deadline a number of milliseconds from now (R59). -/
def dueIn (s : State) (ms : Half) : Deadline := { value := s.clock + BitVec.ofNat 40 ms.toNat, raised := false }

/-- What a table operation leaves alone: the port units, the clock, the reset mark, the queue of commands. -/
def OutsideKept (s t : State) : Prop :=
  t.ports = s.ports ∧ t.clock = s.clock ∧ t.inReset = s.inReset ∧ t.pending = s.pending

end Sys2Proof.Claims

section Statements

open Sys2Proof Sys2Proof.Machine Sys2Proof.Claims Sys2Proof.Safety

/-! ### The step -/

/-- One step runs the command at the front of the queue on the state with the queue's rest; on an empty queue nothing
happens. The queue is the model's own (log entries 3 and 4). -/
def Obligations.StepRunsTheFrontCommand : Prop :=
  (∀ (s : State) (i : Instr) (rest : List Instr), s.pending = i :: rest →
    step s = exec i { s with pending := rest }) ∧
  ∀ s : State, s.pending = [] → step s = .next s

/-- Every command answers a next state from every state: the spec gives each an effect, an answer, a drop or no effect, and the
model has no stop. The command leaves the queue of commands alone, which is the model's own and no rule's (log entry 4,
DESIGN CHOICE). -/
def Obligations.EveryCommandCompletes : Prop :=
  ∀ (i : Instr) (s : State), ∃ t, exec i s = .next t ∧ t.pending = s.pending

/-! ### Frames and bytes -/

/-- The frame of a well-formed request command is good, of the length the command's frame has, and decodes from its bits to the
command; and the command that any bits decode to is well-formed, stands on the port, and has those very bits. -/
def Obligations.DecodeReadsEncodedFrame : Prop :=
  (∀ (i : Instr) (p : Port) (t : Timing) (bytes : List Byte), i.wf = true → instrPort i = some (p, t) →
    encodeFrame i = some bytes →
      goodFrame i = some (p, bytes.length) ∧ bytes.length ≤ 64 ∧ (receive (bitsOf bytes)).good = true ∧
        decodeFrame p t (bitsOf bytes) = i) ∧
  ∀ (p : Port) (t : Timing) (bits : List Bool),
    (decodeFrame p t bits).wf = true ∧ portOf (decodeFrame p t bits) = some p ∧
      frameBits (decodeFrame p t bits) = some bits

namespace Sys2Proof.Claims

/-- One shift of the check register: toward the most significant bit, and 0x07 when a 1 is shifted out (R165). -/
def shifted (r : Byte) : Byte := if r.getLsbD 7 then (r <<< 1) ^^^ 0x07#8 else r <<< 1

/-- Eight shifts of the check register (R165). -/
def shiftedEight (r : Byte) : Byte := Nat.iterate shifted 8 r

end Sys2Proof.Claims

/-- R165: the check byte's definition, the receiver's test, the part's use of it, and the two examples. -/
def Obligations.CheckByteIsTheCrc : Prop :=
  crc8 [] = 0x00#8 ∧
  (∀ (bs : List Byte) (b : Byte), crc8 (bs ++ [b]) = shiftedEight (crc8 bs ^^^ b)) ∧
  (∀ (bs : List Byte) (b : Byte), crc8 (bs ++ [b]) = 0x00#8 ↔ b = crc8 bs) ∧
  (∀ r : Request, ∃ covered, requestBytes r = covered ++ [crc8 covered]) ∧
  (∀ a : Answer, ∃ covered, answerBytes a = covered ++ [crc8 covered]) ∧
  (∀ r : Reception, r.good = true → crc8 r.bytes = 0x00#8) ∧
  crc8 [0x31#8, 0x32#8, 0x33#8, 0x34#8, 0x35#8, 0x36#8, 0x37#8, 0x38#8, 0x39#8] = 0xF4#8 ∧
  crc8 [0x05#8] = 0x1B#8 ∧ crc8 [0x05#8, 0x00#8] = 0x41#8 ∧ crc8 [0x05#8, 0x00#8, 0x00#8] = 0xC0#8 ∧
  encodeFrame (.probe 0 ⟨0, 0x0#4, 0x00#8⟩) = some [0x05#8, 0x00#8, 0x00#8, 0x02#8, 0x40#8]

/-- R140 on the bytes that R138 assembles: the bits of a frame are whole bytes, most significant bit first, and fewer than eight
bits more; the port keeps the first 64 bytes and counts every one; a frame in which a bit was clocked is bad exactly
under one of the four conditions, and one without a bit is not classed. -/
def Obligations.FrameIsBadExactlyWhen : Prop :=
  (∀ (p : Port) (t : Timing) (bytes : List Byte) (extra : List Bool), extra.length < 8 → bytes ≠ [] ∨ extra ≠ [] →
    (decodeFrame p t (bitsOf bytes ++ extra) = .badFrame ⟨p, bitsOf bytes ++ extra⟩ ↔
      extra ≠ [] ∨
      (∃ len ∈ bytes.head?, len.toNat < 5 ∨ 64 < len.toNat) ∨
      (∃ len ∈ bytes.head?, bytes.length ≠ len.toNat) ∨
      ∃ check ∈ bytes.getLast?, check ≠ crc8 bytes.dropLast)) ∧
  (∀ bits : List Bool, ∃ (bytes : List Byte) (extra : List Bool), extra.length < 8 ∧ bits = bitsOf bytes ++ extra ∧
    (∀ (k j : Nat) (b : Byte), bytes[k]? = some b → j < 8 → bits[8 * k + j]? = some (b.getLsbD (7 - j))) ∧
    receive bits = { bytes := bytes.take 64, count := bytes.length, bits := extra }) ∧
  ∀ (p : Port) (t : Timing), decodeFrame p t [] = .unclockedFrame p

namespace Sys2Proof.Claims

/-- The payloads that Table 11-5 allows: a page of at most 12 names, a resource view of at most 8 holders. -/
def Answerable : Payload → Prop
  | .page _ names => names.length ≤ 12
  | .resourceView v => v.holders.length ≤ 8
  | _ => True

end Sys2Proof.Claims

/-- An answer's frame by Table 11-4 and R159: its length, its status, its echoes, the REPLAY flag, the payload from offset 5, the
check byte, its greatest length, and the two bytes that a replay may change; and the payloads of Table 11-5, but for the
views and PROBE, with every wider field most significant byte first. -/
def Obligations.AnswerFrameLayout : Prop :=
  (∀ a : Answer, Answerable a.payload →
    (answerBytes a).length = answerLength a ∧ answerLength a = (payloadBytes a.payload).length + 6 ∧
    6 ≤ answerLength a ∧ answerLength a ≤ 64 ∧
    (answerLength a = 64 ↔ ∃ v, a.payload = .resourceView v ∧ v.holders.length = 8) ∧
    (answerBytes a)[0]? = some (BitVec.ofNat 8 (answerLength a)) ∧
    (answerBytes a)[1]? = some (statusCode a.status) ∧
    (answerBytes a)[2]? = some a.seqEcho ∧
    (answerBytes a)[3]? = some a.kindEcho ∧
    (answerBytes a)[4]? = some (if a.replay then 1#8 else 0#8) ∧
    (∀ k, k < (payloadBytes a.payload).length → (answerBytes a)[5 + k]? = (payloadBytes a.payload)[k]?) ∧
    (answerBytes a).getLast? = some (crc8 (answerBytes a).dropLast) ∧
    ∀ k, k ≠ 4 → k + 1 < answerLength a →
      (answerBytes { a with replay := true })[k]? = (answerBytes { a with replay := false })[k]?) ∧
  payloadBytes .nothing = [] ∧
  (∀ n, payloadBytes (.count n) = [BitVec.ofNat 8 n]) ∧
  (∀ (i : SlotId) g l, payloadBytes (.granted i g l) = [BitVec.ofNat 8 i.val] ++ bytes32 g ++ bytes40 l) ∧
  (∀ (i : SlotId) g (ch : ChannelId) d,
    payloadBytes (.pending i g ch d) = [BitVec.ofNat 8 i.val] ++ bytes32 g ++ [BitVec.ofNat 8 ch.val] ++ bytes16 d) ∧
  (∀ (i : SlotId) n, payloadBytes (.queued i n) = [BitVec.ofNat 8 i.val, BitVec.ofNat 8 n]) ∧
  [EndCause.expired, .revoked, .retired, .timeout, .link].map (fun e => payloadBytes (.late e)) =
    [[1#8], [2#8], [3#8], [4#8], [5#8]] ∧
  (∀ l, payloadBytes (.renewed .held l) = 3#8 :: bytes40 l ∧ payloadBytes (.renewed .recalled l) = 4#8 :: bytes40 l) ∧
  (∀ (c : ClientId) (i : SlotId),
    payloadBytes (.valid c i .exclusive) = [BitVec.ofNat 8 c.val, BitVec.ofNat 8 i.val, 0#8] ∧
    payloadBytes (.valid c i .shared) = [BitVec.ofNat 8 c.val, BitVec.ofNat 8 i.val, 1#8]) ∧
  (∀ names, payloadBytes (.page false names) = 0#8 :: names.flatMap bytes16 ∧
    payloadBytes (.page true names) = 1#8 :: names.flatMap bytes16 ∧
    ∀ more, names.length = ((payloadBytes (.page more names)).length - 1) / 2) ∧
  (∀ n, payloadBytes (.retired .removed n) = [0#8, BitVec.ofNat 8 n] ∧
    payloadBytes (.retired .draining n) = [1#8, BitVec.ofNat 8 n]) ∧
  (∀ w, bytes16 w = [BitVec.ofNat 8 (w.toNat / 2 ^ 8), BitVec.ofNat 8 w.toNat]) ∧
  (∀ w, bytes32 w = [BitVec.ofNat 8 (w.toNat / 2 ^ 24), BitVec.ofNat 8 (w.toNat / 2 ^ 16),
    BitVec.ofNat 8 (w.toNat / 2 ^ 8), BitVec.ofNat 8 w.toNat]) ∧
  ∀ w, bytes40 w = [BitVec.ofNat 8 (w.toNat / 2 ^ 32), BitVec.ofNat 8 (w.toNat / 2 ^ 24),
    BitVec.ofNat 8 (w.toNat / 2 ^ 16), BitVec.ofNat 8 (w.toNat / 2 ^ 8), BitVec.ofNat 8 w.toNat]

namespace Sys2Proof.Claims

/-- Table 11-7: the 21 bytes of a slot view, written field by field. -/
def slotViewLayout (i : SlotId) (state : Byte) (mark : Bool) (name : BitVec 16) (mode : Byte) (generation : BitVec 32)
    (lease recallBy : BitVec 40) (cause : Byte) : List Byte :=
  [BitVec.ofNat 8 i.val, state, if mark then 1#8 else 0#8] ++ bytes16 name ++ [mode] ++ bytes32 generation ++
    bytes40 lease ++ bytes40 recallBy ++ [cause]

end Sys2Proof.Claims

/-- R162 with Tables 7-3 and 11-7: the bytes of a slot view, which FETCH and SLOT_READ return, for each state of the slot, absent
fields as zero bytes. -/
def Obligations.SlotViewBytesByState : Prop :=
  (∀ v : SlotView, payloadBytes (.slotView v) = slotViewBytes v) ∧
  (∀ (v : SlotView) (remaining : Nat),
    payloadBytes (.fetched v remaining) = slotViewBytes v ++ [BitVec.ofNat 8 remaining]) ∧
  ∀ (i : SlotId) (mark : Bool),
    (∀ x : Slot, (slotViewBytes (viewOf i mark x)).length = 21) ∧
    slotViewBytes (viewOf i mark .free) = slotViewLayout i 0#8 mark 0#16 0#8 0#32 0#40 0#40 0#8 ∧
    (∀ n m w, slotViewBytes (viewOf i mark (.waiting n m w)) =
      slotViewLayout i 1#8 mark n (modeCode m) 0#32 0#40 0#40 0#8) ∧
    (∀ n m g, slotViewBytes (viewOf i mark (.gating n m g)) =
      slotViewLayout i 2#8 mark n (modeCode m) g 0#40 0#40 0#8) ∧
    (∀ n m g l, slotViewBytes (viewOf i mark (.held n m g l)) =
      slotViewLayout i 3#8 mark n (modeCode m) g l.value 0#40 0#8) ∧
    (∀ n m g l d, slotViewBytes (viewOf i mark (.recalled n m g l d)) =
      slotViewLayout i 4#8 mark n (modeCode m) g l.value d.value 0#8) ∧
    (∀ n m g cause, slotViewBytes (viewOf i mark (.ended n m (some g) cause)) =
      slotViewLayout i 5#8 mark n (modeCode m) g 0#40 0#40 (causeCode cause)) ∧
    (∀ n m cause, slotViewBytes (viewOf i mark (.ended n m none cause)) =
      slotViewLayout i 5#8 mark n (modeCode m) 0#32 0#40 0#40 (causeCode cause)) ∧
    modeCode .exclusive = 0#8 ∧ modeCode .shared = 1#8 ∧ causeCode .expired = 1#8 ∧ causeCode .revoked = 2#8 ∧
    causeCode .retired = 3#8 ∧ causeCode .timeout = 4#8 ∧ causeCode .link = 5#8

/-- R163 with Table 11-8: the bytes of a resource view, each packed byte by the number it holds, and the number of holder items
from the payload's length. -/
def Obligations.ResourceViewBytes : Prop :=
  ∀ v : ResourceView, 1 ≤ v.shareLimit → v.shareLimit ≤ 8 → v.waiterCount ≤ 16 →
    (∀ x ∈ v.gate, x.2.toNat ≤ 1000) →
      v.holders.length = ((payloadBytes (.resourceView v)).length - 10) / 6 ∧
      payloadBytes (.resourceView v) = resourceViewBytes v ∧
      ∃ b2 b9 : Byte, ∃ gate : BitVec 16,
        resourceViewBytes v =
          bytes16 v.name ++ [b2] ++ bytes16 v.leaseTerm ++ bytes16 v.recallGrace ++ bytes16 gate ++ [b9] ++
            v.holders.flatMap holderBytes ∧
        b2.toNat = (if v.state = .draining then 128 else 0) + 16 * (v.shareLimit - 1) + v.rank.val ∧
        (v.gate = none → gate = 0#16) ∧
        (∀ g d, v.gate = some (g, d) → gate.toNat = 32768 + 2048 * g.val + d.toNat) ∧
        b9.toNat = 8 * v.waiterCount + ((v.headPriority.map Fin.val).getD 0) ∧
        ∀ h ∈ v.holders, ∃ b : Byte,
          holderBytes h = b :: tagCode h.state :: bytes32 h.generation ∧
          b.toNat = 16 * h.client.val + 2 * h.slot.val + (if h.mode = .shared then 1 else 0)

/-! ### The ports -/

/-- R139 and R164: the outgoing content of a frame is chosen when it begins, from the link state and the response slot, with
nothing received yet; its fill bytes exceed 64, it is shifted out most significant bit first, and no event changes it
before the frame ends. That a frame line that becomes active in the reset has no effect is the model's reading of R137
(log entry 7, DEDUCED). -/
def Obligations.FrameStartFixesTheContent : Prop :=
  (∀ (s : State) (p : Port), s.inReset = false → (s.port p).frame = none →
    ∃ out : Outgoing,
      exec (.frameStart p) s = .next (s.setPort p { s.port p with
        frame := some { outgoing := out, received := { bytes := [], count := 0, bits := [] } } }) ∧
      ((s.port p).link = .faulted → (∀ k, out.byteAt k = 0xF2#8) ∧ ∀ len, out.carriedWhole len = false) ∧
      ((s.port p).link = .up →
        (∀ a, (s.port p).slot = .ready a →
          (∀ k, out.byteAt k = if k < answerLength a then (answerBytes a).getD k 0x00#8 else 0xF0#8) ∧
          ∀ len, out.carriedWhole len = true ↔ answerLength a ≤ len) ∧
        (∀ w, (s.port p).slot = .working w → (∀ k, out.byteAt k = 0xF1#8) ∧ ∀ len, out.carriedWhole len = false) ∧
        ((s.port p).slot = .empty → (∀ k, out.byteAt k = 0xF0#8) ∧ ∀ len, out.carriedWhole len = false))) ∧
  (∀ (i : Instr) (s t : State) (p : Port) (f : Frame), exec i s = .next t → (s.port p).frame = some f →
    (t.port p).frame = some f ∨ (t.port p).frame = none) ∧
  (∀ (out : Outgoing) (k j : Nat), j < 8 → out.bitAt (8 * k + j) = (out.byteAt k).getLsbD (7 - j)) ∧
  (∀ (s : State) (p : Port), s.inReset = true → exec (.frameStart p) s = .next s) ∧
  (64 < (0xF0#8 : Byte).toNat ∧ 64 < (0xF1#8 : Byte).toNat ∧ 64 < (0xF2#8 : Byte).toNat) ∧
  ∀ a : Answer, Answerable a.payload →
    6 ≤ ((Outgoing.answer a).byteAt 0).toNat ∧ ((Outgoing.answer a).byteAt 0).toNat ≤ 64

/-- R142, with the fault of R147 and R148 and the unclocked frame of R138: a bad frame raises the counter and, in UP, the score,
which faults the port at 32; nothing else changes. -/
def Obligations.BadFrameRaisesScoreAndCounter : Prop :=
  (∀ (s : State) (p : Port) (bits : List Bool), (s.port p).frame ≠ none →
    ((s.port p).link = .faulted →
      exec (.badFrame ⟨p, bits⟩) s = .next (s.setPort p { s.port p with
        frame := none, badFrames := counted (s.port p).badFrames })) ∧
    ((s.port p).link = .up → (s.port p).score + 8 < 32 →
      exec (.badFrame ⟨p, bits⟩) s = .next (s.setPort p { s.port p with
        frame := none, badFrames := counted (s.port p).badFrames, score := (s.port p).score + 8 })) ∧
    ((s.port p).link = .up → 32 ≤ (s.port p).score + 8 →
      exec (.badFrame ⟨p, bits⟩) s = .next (s.setPort p { s.port p with
        frame := none, badFrames := counted (s.port p).badFrames, score := 32, link := .faulted,
        faultReport := true }))) ∧
  ∀ (s : State) (p : Port), exec (.unclockedFrame p) s = .next (s.setPort p { s.port p with frame := none })

/-- R144 and R149: a good frame of any kind whose request the port must drop in UP raises the overrun counter and lowers the
score; in FAULTED every good frame but a LINK_RESET is dropped without count. The request reaches no owner and the
response slot keeps its answer. -/
def Obligations.DroppedRequestReachesNoOwner : Prop :=
  (∀ (i : Instr) (s : State) (p : Port) (len : Nat), goodFrame i = some (p, len) → Overrun s p len →
    exec i s = .next (s.setPort p { s.port p with
      frame := none, score := (s.port p).score - 1, overruns := counted (s.port p).overruns })) ∧
  ∀ (i : Instr) (s : State) (p : Port) (len : Nat), goodFrame i = some (p, len) → (∀ h, i ≠ .linkReset p h) →
    (s.port p).link = .faulted → (s.port p).frame ≠ none →
      exec i s = .next (s.setPort p { s.port p with frame := none })

/-- R152: a POLL consumes an answer its frame carried whole, leaves an EMPTY slot EMPTY, is else dropped as an overrun, and is
dropped without count in FAULTED. -/
def Obligations.PollConsumesACarriedAnswer : Prop :=
  ∀ (s : State) (p : Port) (h : Header) (padding : List Byte), padding.length ≤ 59 →
    (Taken s p (padding.length + 5) →
      exec (.poll p ⟨h, padding⟩) s = .next (s.setPort p (afterGood (s.port p) .empty))) ∧
    (Overrun s p (padding.length + 5) →
      exec (.poll p ⟨h, padding⟩) s = .next (s.setPort p { s.port p with
        frame := none, score := (s.port p).score - 1, overruns := counted (s.port p).overruns })) ∧
    ((s.port p).link = .faulted → (s.port p).frame ≠ none →
      exec (.poll p ⟨h, padding⟩) s = .next (s.setPort p { s.port p with frame := none }))

/-- R153 with Tables 10-3 and 11-9: a PROBE that is taken answers the values of the moment, its own port's score after its own
frame has lowered it, and changes nothing; in FAULTED it is dropped; a frame of its kind with a payload is no PROBE. -/
def Obligations.ProbeReportsThePart : Prop :=
  (∀ (p : Port) (t : Timing) (client seq : Byte) (payload : List Byte), payload ≠ [] →
    decodeGood p t client seq 0x02#8 payload = .unknownKind p (headerOf client seq) 0x02#8 payload) ∧
  (∀ (s : State) (p : Port) (h : Header), (s.port p).link = .faulted → (s.port p).frame ≠ none →
    exec (.probe p h) s = .next (s.setPort p { s.port p with frame := none })) ∧
  ∀ (s : State) (p : Port) (h : Header), Taken s p 5 →
    ∃ v : ProbeView,
      exec (.probe p h) s = .next (answered s p
        { status := .ok, seqEcho := h.seq, kindEcho := 0x02#8, replay := false, payload := .probe v }) ∧
      v.clock = s.clock ∧ v.score = (s.port p).score - 1 ∧ v.badFrames = (s.port p).badFrames ∧
      v.overruns = (s.port p).overruns ∧
      ∃ links : Byte,
        (∀ q : Port, links.getLsbD q.val = decide ((s.port q).link = .faulted)) ∧ links.getLsbD p.val = false ∧
        payloadBytes (.probe v) =
          [0x0C#8, 0x4D#8, 0x08#8, 0x16#8, 0x01#8] ++ bytes40 v.clock ++ [links, BitVec.ofNat 8 v.score] ++
            bytes16 v.badFrames ++ bytes16 v.overruns

namespace Sys2Proof.Claims

/-- Table 11-2: the kind codes and the payload length each requires, none for POLL, which takes any. -/
def requestTable : List (Byte × Option Nat) :=
  [(0x01#8, none), (0x02#8, some 0), (0x03#8, some 0), (0x10#8, some 3), (0x11#8, some 0), (0x20#8, some 5),
   (0x21#8, some 1), (0x22#8, some 1), (0x23#8, some 1), (0x24#8, some 0), (0x28#8, some 0), (0x29#8, some 1),
   (0x30#8, some 6), (0x31#8, some 2), (0x32#8, some 2), (0x40#8, some 12), (0x41#8, some 8), (0x42#8, some 3),
   (0x43#8, some 4)]

end Sys2Proof.Claims

/-- R157 and R154: a good frame is a malformed request exactly when no row of Table 11-2 has its kind and its payload length;
taken in UP it is answered BAD_REQUEST with its own sequence and kind bytes and changes no table; in FAULTED it is
dropped. -/
def Obligations.MalformedRequestIsBadRequest : Prop :=
  (∀ (p : Port) (t : Timing) (client seq kind : Byte) (payload : List Byte), payload.length ≤ 59 →
    (decodeGood p t client seq kind payload = .unknownKind p (headerOf client seq) kind payload ↔
      ∀ row ∈ requestTable, row.1 = kind → ∃ n, row.2 = some n ∧ payload.length ≠ n)) ∧
  (∀ (s : State) (p : Port) (h : Header) (kind : Byte) (payload : List Byte), Taken s p (payload.length + 5) →
    exec (.unknownKind p h kind payload) s = .next (answered s p
      { status := .badRequest, seqEcho := h.seq, kindEcho := kind, replay := false, payload := .nothing })) ∧
  ∀ (s : State) (p : Port) (h : Header) (kind : Byte) (payload : List Byte), (s.port p).link = .faulted →
    (s.port p).frame ≠ none →
      exec (.unknownKind p h kind payload) s = .next (s.setPort p { s.port p with frame := none })

namespace Sys2Proof.Claims

/-- A LINK_RESET that ends now is taken (R150): as any request in UP, and in FAULTED unless the slot is WORKING. -/
def ResetTaken (s : State) (p : Port) : Prop :=
  Taken s p 5 ∨
    ((s.port p).link = .faulted ∧ (s.port p).frame ≠ none ∧ ∀ w, (s.port p).slot ≠ .working w)

/-- Is the client SUSPECT and bound to the port? -/
def isSuspectOn (s : State) (p : Port) (c : ClientId) : Bool :=
  (s.client c).state == .suspect && (s.client c).port == some p

end Sys2Proof.Claims

/-- R150 and R38: a LINK_RESET that is taken returns the port to UP with score 0, its SUSPECT clients to OPEN, and answers their
number at once; it changes nothing else. In FAULTED with the slot WORKING it is dropped and counted. The case of a
fault report still untaken is the model's choice (log entry 9) and is left out by a hypothesis. -/
def Obligations.LinkResetReopensThePort : Prop :=
  (∀ (s : State) (p : Port) (h : Header), ResetTaken s p → (s.port p).faultReport = false →
    ∃ t, exec (.linkReset p h) s = .next t ∧
      t.port p = { s.port p with
        frame := none, link := .up, score := 0
        slot := .ready
          { status := .ok, seqEcho := h.seq, kindEcho := 0x03#8, replay := false
            payload := .count ((List.finRange 16).filter (isSuspectOn s p)).length } } ∧
      (∀ q, q ≠ p → t.port q = s.port q) ∧
      (∀ c, t.client c = if isSuspectOn s p c then { s.client c with state := .opened } else s.client c) ∧
      t.records = s.records ∧ t.channels = s.channels ∧ t.generation = s.generation ∧ t.clock = s.clock ∧
      t.inReset = s.inReset ∧ (∀ q, t.attention q = s.attention q) ∧
      (ClientsLawful s → (s.port p).link = .up → ∀ c, isSuspectOn s p c = false)) ∧
  ∀ (s : State) (p : Port) (h : Header) (w : Work), (s.port p).link = .faulted → (s.port p).frame ≠ none →
    (s.port p).slot = .working w →
      exec (.linkReset p h) s = .next (s.setPort p { s.port p with
        frame := none, overruns := counted (s.port p).overruns })

/-- R145 and R135: a client-level request whose carrying out is a later event is handed over, and the slot is WORKING; placing a
complete answer makes the slot READY in either link state; with no request in processing nothing is placed. Whether a
request is carried out at its frame's end or when its answer is placed makes no difference where nothing is taken in between
(log entry 1). Before the screening of a request for a client, an OPEN or CLOSE of that client that another port holds
screened is carried out, just as at ANSWER_PLACED, and its answer still waits (log entry 2); without such a request nothing
is. -/
def Obligations.RequestHandedOverAndAnswerPlaced : Prop :=
  (∀ (i : Instr) (s : State) (p : Port) (r : Request), clientRequest i = some (p, r, .later) →
    Taken s p (requestLength r) →
      exec i s = .next (s.setPort p (afterGood (s.port p) (.working (.handed r))))) ∧
  (∀ (s : State) (p : Port) (a : Answer), (s.port p).slot = .working (.done a) →
    exec (.answerPlaced p) s = .next (s.setPort p { s.port p with slot := .ready a })) ∧
  (∀ (s : State) (p : Port), (∀ w, (s.port p).slot ≠ .working w) → exec (.answerPlaced p) s = .next s) ∧
  (∀ (i j : Instr) (s t u : State) (p : Port) (r : Request), clientRequest i = some (p, r, .later) →
    clientRequest j = some (p, r, .atFrameEnd) → exec i s = .next t → exec j s = .next u →
      exec (.answerPlaced p) t = exec (.answerPlaced p) u) ∧
  (∀ (s : State) (c : ClientId), (∀ q, ∀ x ∈ screenedOn (s.port q), x.1.header.client = c → x.2.rebinds x.1 = false) →
    s.carryEarlier c = s) ∧
  ∀ (s t : State) (q : Port) (r : Request) (k : Passage), ScreenedLawful s →
    (s.port q).slot = .working (.screened r k) → k = .plainOpen ∨ bodyKind r.body = .close →
    exec (.answerPlaced q) s = .next t →
      ∃ a, (t.port q).slot = .ready a ∧
        s.carryEarlier r.header.client = t.setPort q { t.port q with slot := .working (.done a) }

namespace Sys2Proof.Claims

/-- The command is the end of a bad frame on the port. -/
def BadFrameOn (i : Instr) (s : State) (p : Port) : Prop := (∃ bits, i = .badFrame ⟨p, bits⟩) ∧ (s.port p).frame ≠ none

/-- The command is the end of a good frame whose request the port drops and counts (R144, R150): an overrun in UP, or a
LINK_RESET in FAULTED with the slot WORKING. -/
def DroppedOn (i : Instr) (s : State) (p : Port) : Prop :=
  (∃ len, goodFrame i = some (p, len) ∧ Overrun s p len) ∨
    ((∃ h, i = .linkReset p h) ∧ (s.port p).link = .faulted ∧ (s.port p).frame ≠ none ∧
      ∃ w, (s.port p).slot = .working w)

end Sys2Proof.Claims

/-- R155: the bad-frame counter of a port rises by each of its bad frames and the overrun counter by each of its dropped
requests, neither above 65535; chip reset alone sets them to 0, and every other command leaves them. -/
def Obligations.CountersCountAndSaturate : Prop :=
  ∀ (i : Instr) (s t : State) (p : Port), exec i s = .next t →
    (i = .chipReset → (t.port p).badFrames = 0#16 ∧ (t.port p).overruns = 0#16) ∧
    (i ≠ .chipReset →
      (BadFrameOn i s p → (t.port p).badFrames = counted (s.port p).badFrames) ∧
      (¬ BadFrameOn i s p → (t.port p).badFrames = (s.port p).badFrames) ∧
      (DroppedOn i s p → (t.port p).overruns = counted (s.port p).overruns) ∧
      (¬ DroppedOn i s p → (t.port p).overruns = (s.port p).overruns))

/-- R148: what happens on one port changes no other port's unit, and no deadline, settle end or clock tick changes any; but that
a request which another port holds screened may be carried out, its slot still WORKING (R135, log entry 2). -/
def Obligations.PortsAreIndependent : Prop :=
  ∀ (i : Instr) (s t : State) (q : Port), exec i s = .next t → portOf i ≠ some q → i ≠ .chipReset →
    t.port q = s.port q ∨
      ∃ r k a, (s.port q).slot = .working (.screened r k) ∧ t.port q = { s.port q with slot := .working (.done a) }

/-- Every step keeps the port law and the first half of the eleventh law (R35, R147, R148): a port is FAULTED exactly at score
32, and an open client is SUSPECT only on a FAULTED port; and that a request screened and not yet carried out finds its
client as its screening did (R135, R145). -/
def Obligations.StepKeepsPortAndClientLaws : Prop :=
  ∀ s t : State, PortsLawful s → ClientsLawful s → ScreenedLawful s → step s = .next t →
    PortsLawful t ∧ ClientsLawful t ∧ ScreenedLawful t

/-! ### Screening, replay and refusal -/

/-- R126, step 2, with R145: a request for a client that is open on another port is answered BAD_CLIENT, an OPEN IN_USE; a request
for a CLOSED client other than OPEN and CLOSE is answered NOT_OPEN. Nothing is carried out and nothing is cached. A request
handed over before its port's fault is so screened before the fault is taken. The client is taken as a request screened
earlier has left it (R135, log entry 2). -/
def Obligations.BindingCheckAnswers : Prop :=
  ∀ (s : State) (p : Port) (r : Request),
    let x := (s.carryEarlier r.header.client).client r.header.client
    (x.state ≠ .closed → x.port ≠ some p →
      ScreenedOff s p r (answerFor r (if bodyKind r.body = .openClient then .inUse else .badClient) .nothing)) ∧
    (x.state = .closed → bodyKind r.body ≠ .openClient → bodyKind r.body ≠ .close →
      ScreenedOff s p r (answerFor r .notOpen .nothing))

namespace Sys2Proof.Claims

/-- The three items of the replay test (R130). -/
def sameAsCached (k : Cache) (r : Request) : Prop :=
  r.header.seq = k.seq ∧ bodyKind r.body = k.kind ∧ requestCheck r = k.check

/-- Is the request an OPEN with the takeover flag clear? -/
def plainOpenRequest (r : Request) : Prop :=
  ∃ branch priority flags, r.body = .openClient branch priority flags ∧ flags.getLsbD 1 = false

end Sys2Proof.Claims

/-- R127, R128, R130 and R132 for a client open on the arriving port: a replay is answered from the cache with REPLAY set and
nothing is carried out, an OPEN without takeover is IN_USE, a conflict SEQ_CONFLICT, any other number but the
successor SEQ_ERROR, all with the cache unchanged; the successor is carried out and cached, whatever its status. A
request handed over before its port's fault is so screened before the fault is taken (R145), and nothing stands before the
screening of such a client's request. -/
def Obligations.SequenceCheckClasses : Prop :=
  ∀ (s : State) (p : Port) (r : Request) (k : Cache),
    (s.client r.header.client).state ≠ .closed → (s.client r.header.client).port = some p →
    (s.client r.header.client).cache = some k →
      (screenedOn (s.port p) = none → s.carryEarlier r.header.client = s) ∧
      (sameAsCached k r → ScreenedOff s p r { k.answer with replay := true }) ∧
      (¬ sameAsCached k r → plainOpenRequest r → ScreenedOff s p r (answerFor r .inUse .nothing)) ∧
      (¬ sameAsCached k r → ¬ plainOpenRequest r → r.header.seq = k.seq →
        ScreenedOff s p r (answerFor r .seqConflict .nothing)) ∧
      (¬ plainOpenRequest r → r.header.seq ≠ k.seq → r.header.seq ≠ k.seq + 1#8 →
        ScreenedOff s p r (answerFor r .seqError .nothing)) ∧
      (¬ plainOpenRequest r → r.header.seq = k.seq + 1#8 → ScreenedOn s p r .fresh ∧
        ∀ i, clientRequest i = some (p, r, .atFrameEnd) →
          ∃ t st pl, OutsideKept s t ∧ Completes i s p r t st pl)

/-- R134: a CLOSE for a CLOSED client is replayed from the CLOSE cache on the cache's port, and is else answered NOT_OPEN; so
too where it was handed over before its port's fault (R145). The client is taken as a request screened earlier has left it
(R135, log entry 2). -/
def Obligations.CloseOfClosedClient : Prop :=
  ∀ (s : State) (p : Port) (h : Header),
    let x := (s.carryEarlier h.client).client h.client
    x.state = .closed →
      (∀ k, x.cache = some k → x.port = some p → k.kind = .close → h.seq = k.seq →
        requestCheck ⟨h, .close⟩ = k.check → ScreenedOff s p ⟨h, .close⟩ { k.answer with replay := true }) ∧
      ((∀ k, x.cache = some k → x.port = some p → k.kind = .close → h.seq = k.seq →
        requestCheck ⟨h, .close⟩ ≠ k.check) → ScreenedOff s p ⟨h, .close⟩ (answerFor ⟨h, .close⟩ .notOpen .nothing))

/-- R161 with Table 11-6: the status codes, and a request answered with a code from 0x10 upward has changed nothing but its port
and its client's cache, from where what stood before its screening had been carried out (R135, log
entry 2). -/
def Obligations.RefusalChangesNothing : Prop :=
  [Status.ok, .granted, .pending, .queued, .unavailable, .empty, .late, .valid, .stale].map statusCode =
    [0x00#8, 0x01#8, 0x02#8, 0x03#8, 0x04#8, 0x05#8, 0x06#8, 0x07#8, 0x08#8] ∧
  [Status.badRequest, .badParam, .notOpen, .badClient, .inUse, .notAdmin, .seqError, .seqConflict, .noResource,
    .retiring, .duplicate, .dirFull, .channelBusy, .badMode, .order, .already, .slotsFull, .waitBusy, .notHeld,
    .notWaiting, .resourceBusy, .badState].map statusCode =
    [0x10#8, 0x11#8, 0x12#8, 0x13#8, 0x14#8, 0x15#8, 0x16#8, 0x17#8, 0x18#8, 0x19#8, 0x1A#8, 0x1B#8, 0x1C#8, 0x1D#8,
     0x1E#8, 0x1F#8, 0x20#8, 0x21#8, 0x22#8, 0x23#8, 0x24#8, 0x25#8] ∧
  (∀ a : Answer, (answerBytes a)[1]? = some (statusCode a.status)) ∧
  ∀ (i : Instr) (s t : State) (p : Port) (r : Request) (a : Answer),
    clientRequest i = some (p, r, .atFrameEnd) → Taken s p (requestLength r) → exec i s = .next t →
    (t.port p).slot = .working (.done a) → 16 ≤ (statusCode a.status).toNat →
      let u := s.carryEarlier r.header.client
      ∃ k, t = answered (u.setClient r.header.client { u.client r.header.client with cache := k }) p a

/-! ### Clients -/

namespace Sys2Proof.Claims

/-- The OPEN command with the takeover flag as given: the row OPEN or the row TAKEOVER. -/
def opening (takeover : Bool) (p : Port) (h : Header) (branch priority : Byte) (admin : Bool) (reserved : BitVec 6)
    (t : Timing) : Instr :=
  if takeover then .takeover p h branch priority admin reserved t
  else .openClient p h branch priority admin reserved t

/-- Its request. -/
def openingRequest (takeover : Bool) (h : Header) (branch priority : Byte) (admin : Bool) (reserved : BitVec 6) : Request :=
  ⟨h, .openClient branch priority (openFlags admin takeover reserved)⟩

/-- The checks of R22, in their order. -/
def openChecks (p : Port) (branch priority : Byte) (admin : Bool) : List (Prop × Status) :=
  [(7 < branch.toNat ∨ 7 < priority.toNat, .badParam), (admin = true ∧ p ≠ 0, .notAdmin)]

/-- The client context with the attributes of an OPEN that passes its checks. -/
def openedContext (x : Client) (state : ClientState) (p : Port) (branch priority : Fin 8) (admin : Bool) : Client :=
  { x with state := state, port := some p, branch := branch, priority := priority, admin := admin }

end Sys2Proof.Claims

/-- R22, R23 and R131: an OPEN for a CLOSED client, whatever its sequence number and its takeover flag, is refused by the first
check that fails and then leaves the client and its cache alone, or opens the client on the port and is cached. It is
left SUSPECT where the port is FAULTED when the request completes, which the model reads from the link state also while the
fault report is untaken (log entry 11, DEDUCED). One handed over before the port's fault is screened before the fault is
taken (R145), and carried out later as its screening passed it on (R36). The client is taken as a request screened earlier
has left it (R135, log entry 2). -/
def Obligations.OpenForClosedClient : Prop :=
  ∀ (s : State) (p : Port) (h : Header) (branch priority : Byte) (takeover admin : Bool) (reserved : BitVec 6),
    let r := openingRequest takeover h branch priority admin reserved
    let i := opening takeover p h branch priority admin reserved .atFrameEnd
    let u := s.carryEarlier h.client
    let opened := fun (t : State) (x : ClientState) (b pr : Fin 8) =>
      t.setClient h.client (openedContext (t.client h.client) x p b pr admin)
    ((u.client h.client).state = .closed →
      ScreenedOn s p r .plainOpen ∧
      (∀ st, FirstFailing (openChecks p branch priority admin) st →
        (Taken s p (requestLength r) → exec i s = .next (answered u p (answerFor r st .nothing))) ∧
        ((s.port p).slot = .working (.handed r) →
          exec (.answerPlaced p) s = .next (u.setPort p { s.port p with slot := .ready (answerFor r st .nothing) }))) ∧
      ∀ b pr : Fin 8, AllPass (openChecks p branch priority admin) → branch.toNat = b.val → priority.toNat = pr.val →
        (Taken s p (requestLength r) → exec i s = .next (completed (opened u .opened b pr) p r .ok (.count 0))) ∧
        ((s.port p).slot = .working (.handed r) → (s.port p).link = .faulted →
          exec (.answerPlaced p) s = .next (placed (opened u .suspect b pr) p r .ok (.count 0)))) ∧
    ((s.port p).slot = .working (.screened r .plainOpen) →
      (∀ st, FirstFailing (openChecks p branch priority admin) st →
        exec (.answerPlaced p) s = .next (s.setPort p { s.port p with slot := .ready (answerFor r st .nothing) })) ∧
      ∀ b pr : Fin 8, AllPass (openChecks p branch priority admin) → branch.toNat = b.val → priority.toNat = pr.val →
        (s.port p).link = .faulted →
          exec (.answerPlaced p) s = .next (placed (opened s .suspect b pr) p r .ok (.count 0)))

/-- R25, R133 and R36: a new TAKEOVER is refused by the first check that fails, with its refusal cached, or frees every slot of
the client in index order, empties its change queue, writes its attributes and answers the number of slots that were not
FREE. It leaves the client SUSPECT where it completes on a FAULTED port, and OPEN else; the model reads this from the link
state also while the fault report is untaken (log entry 11, DEDUCED). -/
def Obligations.TakeoverReplacesTheContext : Prop :=
  ∀ (s : State) (p : Port) (h : Header) (branch priority : Byte) (admin : Bool) (reserved : BitVec 6),
    let r := openingRequest true h branch priority admin reserved
    let i := Instr.takeover p h branch priority admin reserved .atFrameEnd
    Fresh s p r →
      (∀ st, FirstFailing (openChecks p branch priority admin) st → Completes i s p r s st .nothing) ∧
      ∀ b pr : Fin 8, AllPass (openChecks p branch priority admin) → branch.toNat = b.val →
        priority.toNat = pr.val →
          ∃ t, Completes i s p r t .ok (.count (slotCount s h.client (fun x => x != .free))) ∧
            OutsideKept s t ∧
            t.client h.client = { s.client h.client with
              state := if (s.port p).link = .faulted then .suspect else .opened
              branch := b, priority := pr, admin := admin
              slots := Vector.replicate 8 .free, queue := [] } ∧
            (let u := (List.finRange 8).foldl (fun x j => x.freeSlot h.client j) s
             t.records = u.records ∧ t.channels = u.channels ∧ t.generation = u.generation ∧
               ∀ d, d ≠ h.client → t.client d = u.client d)

/-- R26, R27 and R36: a new CLOSE frees every slot of the client in index order, empties its change queue, closes it with branch
0, priority 0 and no admin attribute, keeps its port, and answers the number of slots freed, for a SUSPECT client on a
FAULTED port too. What freeing a slot does stands state by state. -/
def Obligations.CloseFreesEverySlot : Prop :=
  (∀ (s : State) (p : Port) (h : Header), Fresh s p ⟨h, .close⟩ →
    ∃ t, Completes (.close p h .atFrameEnd) s p ⟨h, .close⟩ t .ok
        (.count (slotCount s h.client (fun x => x != .free))) ∧
      OutsideKept s t ∧
      t.client h.client = { s.client h.client with
        state := .closed, branch := 0, priority := 0, admin := false
        slots := Vector.replicate 8 .free, queue := [] } ∧
      (let u := (List.finRange 8).foldl (fun x j => x.freeSlot h.client j) s
       t.records = u.records ∧ t.channels = u.channels ∧ t.generation = u.generation ∧
         ∀ d, d ≠ h.client → t.client d = u.client d)) ∧
  ∀ (s : State) (c : ClientId) (i : SlotId),
    (s.slot c i = .free → s.freeSlot c i = s) ∧
    (∀ n m w, s.slot c i = .waiting n m w →
      s.freeSlot c i = ((s.leaveQueue n c i).setSlot c i .free).followUp n) ∧
    (∀ n m g, s.slot c i = .gating n m g →
      s.freeSlot c i = ((s.leaveHolders n c i).setSlot c i .free).followUp n) ∧
    (∀ n m g l, s.slot c i = .held n m g l →
      s.freeSlot c i = (((s.leaveHolders n c i).setSlot c i .free).holderEnd n).followUp n) ∧
    (∀ n m g l d, s.slot c i = .recalled n m g l d →
      s.freeSlot c i = (((s.leaveHolders n c i).setSlot c i .free).holderEnd n).followUp n) ∧
    (∀ n m g e, s.slot c i = .ended n m g e → s.freeSlot c i = s.setSlot c i .free)

namespace Sys2Proof.Claims

/-- A channel before and after the removal of its record (R17, R90, Table 6-1): freed of its binding, with its dead time; a
DISCONNECTED one stays so, a settle runs on. -/
def Unbound (before after : Channel) : Prop :=
  after.binding = none ∧ after.deadTime = before.deadTime ∧
    (before.state = .disconnected → after.state = .disconnected) ∧
    ∀ e, before.state = .settling e → after.state = .settling e

end Sys2Proof.Claims

/-- R15, R17, R47 and R92: what the ends of waits and leases are made of. The follow-up removes a DRAINING record that has no
holder, and unbinds its channel; else it runs the grant pass and then recall evaluation, and leaves a head that is not
compatible and no DRAINING record without a holder. The holder end starts the settle of a CONNECTED channel from zero,
and concerns no ungated resource. A slot that leaves a list takes its own entry out and no other. -/
def Obligations.FollowUpSettlesTheResource : Prop :=
  (∀ (s : State) (n : Name) (r : Record), s.find n = some r → r.state = .draining → r.holders = [] →
    let t := s.followUp n
    t.records = s.records.filter (fun x => x.name != n) ∧ t.clients = s.clients ∧ t.generation = s.generation ∧
      OutsideKept s t ∧ (∀ g, r.gate = some g → Unbound (s.channel g) (t.channel g)) ∧
      ∀ g, r.gate ≠ some g → t.channel g = s.channel g) ∧
  (∀ (s : State) (n : Name) (r : Record), s.find n = some r → ¬ (r.state = .draining ∧ r.holders = []) →
    s.followUp n = (s.grantPass none n).evalRecall n ∧
      (DirectoryLawful s → ListsBacked s →
        ∃ q, (s.followUp n).find n = some q ∧ q.state = r.state ∧ HeadIncompatible q ∧
          (q.state = .draining → q.holders ≠ []))) ∧
  (∀ (s : State) (n : Name) (r : Record), s.find n = some r →
    (∀ g b, r.gate = some g → (s.channel g).state = .connected b →
      s.holderEnd n = s.setChannel g { s.channel g with state := .settling 0 }) ∧
    (r.gate = none → s.holderEnd n = s)) ∧
  ∀ (s : State) (n : Name) (r : Record) (c : ClientId) (i : SlotId), s.find n = some r →
    ((s.leaveHolders n c i).find n = some { r with
        holders := r.holders.filter (fun h => !(h.client == c && h.slot == i)) } ∧
      (∀ k, k ≠ n → (s.leaveHolders n c i).find k = s.find k) ∧
      s.leaveHolders n c i = { s with records := (s.leaveHolders n c i).records }) ∧
    (s.leaveQueue n c i).find n = some { r with
        waiters := r.waiters.filter (fun w => !(w.client == c && w.slot == i)) } ∧
      (∀ k, k ≠ n → (s.leaveQueue n c i).find k = s.find k) ∧
      s.leaveQueue n c i = { s with records := (s.leaveQueue n c i).records }

/-- R35: a port's fault taken at the client table makes every OPEN client of the port SUSPECT, and ends its wait with cause LINK,
posted urgent, unless the follow-up for a client before it granted the wait; no other field of a client context
changes but through those follow-ups, and no holding, ENDED or FREE slot ceases to be one. A request handed over before
the fault is screened first (R145), which changes nothing where none is. That PORT_FAULT without an outstanding report does
nothing is the model's (log entry 10, DEDUCED). -/
def Obligations.PortFaultSuspendsTheClients : Prop :=
  (∀ (s : State) (p : Port), (∀ r, (s.port p).slot ≠ .working (.handed r)) → s.screenHanded p = s) ∧
  (∀ (z : State) (p : Port),
    let s := z.screenHanded p
    ListsAgree s → WaitsLawful s → (z.port p).faultReport = true →
    ∃ t, exec (.portFault p) z = .next t ∧
      t.port p = { s.port p with faultReport := false } ∧ (∀ q, q ≠ p → t.port q = s.port q) ∧
      ∀ c : ClientId,
        let hit := (s.client c).state = .opened ∧ (s.client c).port = some p
        (t.client c).port = (s.client c).port ∧ (t.client c).branch = (s.client c).branch ∧
        (t.client c).priority = (s.client c).priority ∧ (t.client c).admin = (s.client c).admin ∧
        (t.client c).cache = (s.client c).cache ∧
        (hit → (t.client c).state = .suspect) ∧ (¬ hit → (t.client c).state = (s.client c).state) ∧
        ∀ i : SlotId,
          (hit → (t.slot c i).isWaiting = false ∧
            ∀ n m w, s.slot c i = .waiting n m w →
              (t.slot c i = .ended n m none .link ∧ (⟨i, .urgent⟩ : Entry) ∈ (t.client c).queue) ∨
                ∃ g, (t.slot c i).holding = some (n, m, g)) ∧
          (∀ x, (s.slot c i).holding = some x → (t.slot c i).holding = some x) ∧
          ((s.slot c i).isEnded = true ∨ s.slot c i = .free → t.slot c i = s.slot c i)) ∧
  ∀ (s : State) (p : Port), (s.port p).faultReport = false → exec (.portFault p) s = .next s

/-- Every step keeps the second law's first half and the eleventh law's second half (R35, R41): a client has at most one WAITING
slot, and a client that is not OPEN has none. -/
def Obligations.StepKeepsOneWaitPerClient : Prop :=
  ∀ s t : State, WaitsLawful s → ScreenedLawful s → step s = .next t → WaitsLawful t

/-! ### Acquisition and waiting -/

namespace Sys2Proof.Claims

/-- The parameter check of R39 and the admission checks of R40, in their order; mode byte 0 is EXCLUSIVE, 1 SHARED. -/
def acquireChecks (s : State) (c : ClientId) (n : Name) (mode : Byte) : List (Prop × Status) :=
  [(n = 0#16 ∨ (mode ≠ 0#8 ∧ mode ≠ 1#8), .badParam),
   (s.find n = none, .noResource),
   (∃ r, s.find n = some r ∧ r.state = .draining, .retiring),
   (mode = 1#8 ∧ ∃ r, s.find n = some r ∧ r.shareLimit = 1, .badMode),
   (∃ i, (s.slot c i).isWaiting = true, .waitBusy),
   (∃ i, (s.slot c i).liveName = some n, .already),
   (∃ r i m q, s.find n = some r ∧ (s.slot c i).liveName = some m ∧ s.find m = some q ∧ r.rank ≤ q.rank, .order),
   (∀ i, s.slot c i ≠ .free, .slotsFull)]

/-- The mode a mode byte names. -/
def namesMode (mode : Byte) (m : Mode) : Prop := (mode = 0#8 ∧ m = .exclusive) ∨ (mode = 1#8 ∧ m = .shared)

/-- The FREE slot of lowest index (R31). -/
def LowestFree (s : State) (c : ClientId) (i : SlotId) : Prop :=
  s.slot c i = .free ∧ ∀ j, j < i → s.slot c j ≠ .free

/-- A request of the client would stand at the head of the wait queue and be granted there (R49). -/
def GrantedAtOnce (s : State) (c : ClientId) (r : Record) (m : Mode) : Prop :=
  r.compatible m = true ∧ ∀ w ∈ r.waiters, (s.client c).priority < w.priority

end Sys2Proof.Claims

/-- R40: an ACQUIRE that fails a check is answered with the first check that fails, and changes nothing but its client's cache. -/
def Obligations.AcquireRefusedByFirstCheck : Prop :=
  ∀ (s : State) (p : Port) (h : Header) (n : Name) (mode : Byte) (limit : Half) (st : Status),
    Fresh s p ⟨h, .acquire n mode limit⟩ → FirstFailing (acquireChecks s h.client n mode) st →
      Completes (.acquire p h n mode limit .atFrameEnd) s p ⟨h, .acquire n mode limit⟩ s st .nothing

/-- R48, with R31 and R36: an admitted ACQUIRE takes the FREE slot of lowest index, joins the wait queue, runs the grant pass, is
answered from the state of its slot and its wait limit, and then runs recall evaluation. A SUSPECT client's wait is
turned away as a try. All this also where the request was handed over before its port's fault. -/
def Obligations.AdmittedAcquireAnsweredFromItsSlot : Prop :=
  ∀ (s : State) (p : Port) (h : Header) (n : Name) (mode : Byte) (limit : Half) (m : Mode),
    let r : Request := ⟨h, .acquire n mode limit⟩
    let cmd := Instr.acquire p h n mode limit .atFrameEnd
    let c := h.client
    ListsBacked s → Fresh s p r → AllPass (acquireChecks s c n mode) → namesMode mode m →
      ∃ (i : SlotId) (q : Nat), LowestFree s c i ∧
        ((s.enqueue c i n m).waitersOf n)[q]? = some ⟨c, i, m, (s.client c).priority⟩ ∧
        let u := (s.enqueue c i n m).grantPass (some c) n
        (∀ a b g l, u.slot c i = .held a b g l →
          Completes cmd s p r (u.evalRecall n) .granted (.granted i g l.value)) ∧
        (∀ a b g ch, u.slot c i = .gating a b g → u.gateOf n = some ch →
          Completes cmd s p r (u.evalRecall n) .pending (.pending i g ch (u.deadTimeOf ch))) ∧
        ((u.slot c i).isWaiting = true → limit = 0#16 ∨ (s.client c).state = .suspect →
          Completes cmd s p r (((u.leaveQueue n c i).setSlot c i .free).evalRecall n) .unavailable .nothing) ∧
        ((u.slot c i).isWaiting = true → (s.client c).state ≠ .suspect → limit = 65535#16 →
          Completes cmd s p r (u.evalRecall n) .queued (.queued i (q + 1))) ∧
        ((u.slot c i).isWaiting = true → (s.client c).state ≠ .suspect → limit ≠ 0#16 → limit ≠ 65535#16 →
          Completes cmd s p r ((u.setSlot c i (.waiting n m (some (dueIn s limit)))).evalRecall n)
            .queued (.queued i (q + 1)))

/-- R49: in a state whose lists agree, an admitted ACQUIRE is granted exactly when it is compatible and more urgent than every
waiter, and it grants no other slot. -/
def Obligations.AcquireGrantsAtMostItsOwnEntry : Prop :=
  ∀ (s : State) (p : Port) (h : Header) (n : Name) (mode : Byte) (limit : Half) (m : Mode) (rec : Record),
    ListsAgree s → New s p ⟨h, .acquire n mode limit⟩ → AllPass (acquireChecks s h.client n mode) →
    namesMode mode m → s.find n = some rec →
      ∃ (t : State) (i : SlotId), exec (.acquire p h n mode limit .atFrameEnd) s = .next t ∧
        LowestFree s h.client i ∧
        (GrantedAtOnce s h.client rec m → (t.slot h.client i).holding = some (n, m, s.drawn)) ∧
        (¬ GrantedAtOnce s h.client rec m → (t.slot h.client i).holding = none ∧ t.generation = s.generation) ∧
        ∀ d j, ¬ (d = h.client ∧ j = i) → (t.slot d j).holding = (s.slot d j).holding

/-- R50 and R36: a try that is not granted, and any ACQUIRE of a SUSPECT client that is not, leaves the resource, its holders, its
waiters, every slot and every change queue as it found them, where the last recall evaluation of the resource still
stands. -/
def Obligations.FailedTryLeavesNoTrace : Prop :=
  ∀ (s : State) (p : Port) (h : Header) (n : Name) (mode : Byte) (limit : Half) (m : Mode) (rec : Record),
    ListsAgree s → s.evalRecall n = s → Fresh s p ⟨h, .acquire n mode limit⟩ →
    AllPass (acquireChecks s h.client n mode) → namesMode mode m → s.find n = some rec →
    limit = 0#16 ∨ (s.client h.client).state = .suspect → ¬ GrantedAtOnce s h.client rec m →
      Completes (.acquire p h n mode limit .atFrameEnd) s p ⟨h, .acquire n mode limit⟩ s .unavailable .nothing

/-- R43 with Table 3-2: which waiters are compatible, that a longer holder list or a lower share limit never makes a waiter
compatible, that the two modes behave alike at share limit 1, and that no SHARED request is admitted there. -/
def Obligations.CompatibilityTest : Prop :=
  (∀ r : Record, r.compatible .exclusive = true ↔ r.holders = []) ∧
  (∀ r : Record, r.compatible .shared = true ↔
    (∀ h ∈ r.holders, h.mode ≠ .exclusive) ∧ r.holders.length < r.shareLimit) ∧
  (∀ (r q : Record) (m : Mode), r.holders = q.holders → r.shareLimit = q.shareLimit →
    r.compatible m = q.compatible m) ∧
  (∀ (r q : Record) (m : Mode), r.holders.Sublist q.holders → q.shareLimit ≤ r.shareLimit →
    q.compatible m = true → r.compatible m = true) ∧
  (∀ r : Record, r.shareLimit = 1 → r.compatible .exclusive = r.compatible .shared) ∧
  ∀ (s : State) (p : Port) (h : Header) (n : Name) (limit : Half) (r : Record), New s p ⟨h, .acquire n 1#8 limit⟩ →
    s.find n = some r → n ≠ 0#16 → r.state = .active → r.shareLimit = 1 →
      exec (.acquire p h n 1#8 limit .atFrameEnd) s =
        .next (completed s p ⟨h, .acquire n 1#8 limit⟩ .badMode .nothing)

/-- R44: an entry joins an ordered wait queue behind every entry of equal or more urgent priority and ahead of the others, which
keep their order, and the queue stays ordered; the slot becomes WAITING. -/
def Obligations.InsertionByPriority : Prop :=
  ∀ (s : State) (c : ClientId) (i : SlotId) (n : Name) (m : Mode) (r : Record), s.find n = some r → QueueOrdered r →
    ∃ pre post : List Waiter,
      let w : Waiter := ⟨c, i, m, (s.client c).priority⟩
      let q : Record := { r with waiters := pre ++ w :: post }
      r.waiters = pre ++ post ∧ (∀ x ∈ pre, x.priority ≤ w.priority) ∧ (∀ x ∈ post, w.priority < x.priority) ∧
        QueueOrdered q ∧ (s.enqueue c i n m).find n = some q ∧
        (∀ k, k ≠ n → (s.enqueue c i n m).find k = s.find k) ∧
        (s.enqueue c i n m).slot c i = .waiting n m none ∧
        ∀ d j, ¬ (d = c ∧ j = i) → (s.enqueue c i n m).slot d j = s.slot d j

namespace Sys2Proof.Claims

/-- The record after its first waiters were granted with these generations (R46, step 2). -/
def grantedRecord (r : Record) (gens : List Gen) : Record :=
  { r with
    waiters := r.waiters.drop gens.length
    holders := r.holders ++ List.zipWith (fun w g => ⟨w.client, w.slot, w.mode, g⟩) r.waiters gens }

/-- The resource's channel is SETTLING. -/
def Settling (s : State) (r : Record) : Prop := ∃ g, r.gate = some g ∧ (s.channel g).isSettling = true

end Sys2Proof.Claims

/-- R45, R46, R48 and R107: the grant pass grants the waiters at the head of the queue, as long as the head is compatible, and no
other; it ends with an incompatible head. Each granted slot carries a generation drawn for it, and is GATING while the
channel settles, else HELD with its lease deadline and its branch connected. A slot that becomes HELD is posted ordinary,
head first, unless the grant is in its client's own ACQUIRE; a GATING slot is not posted. Of a client nothing else
changes. -/
def Obligations.GrantPassGrantsAPrefix : Prop :=
  ∀ (s : State) (own : Option ClientId) (n : Name) (r : Record), DirectoryLawful s → ListsBacked s →
    s.find n = some r →
      let t := s.grantPass own n
      ∃ gens : List Gen,
        gens.length ≤ r.waiters.length ∧ t.find n = some (grantedRecord r gens) ∧
        HeadIncompatible (grantedRecord r gens) ∧
        (∀ (k : Nat) (w : Waiter), k < gens.length → r.waiters[k]? = some w →
          (grantedRecord r (gens.take k)).compatible w.mode = true) ∧
        (∀ k, k ≠ n → t.find k = s.find k) ∧
        gens.Nodup ∧ (∀ g ∈ gens, g ≠ 0#32 ∧ ∀ d j, (s.slot d j).holdingGen ≠ some g) ∧
        t.generation = gens.getLastD s.generation ∧
        (∀ (k : Nat) (w : Waiter) (g : Gen), r.waiters[k]? = some w → gens[k]? = some g →
          (Settling s r → t.slot w.client w.slot = .gating n w.mode g) ∧
          (¬ Settling s r → t.slot w.client w.slot = .held n w.mode g (leaseEnd s r) ∧
            ∀ ch, r.gate = some ch →
              t.channel ch = { s.channel ch with state := .connected (s.client w.client).branch })) ∧
        (∀ c, t.client c = { s.client c with slots := (t.client c).slots, queue := (t.client c).queue } ∧
          (Settling s r ∨ own = some c → (t.client c).queue = (s.client c).queue) ∧
          (¬ Settling s r → own ≠ some c → (t.client c).queue =
            ((r.waiters.take gens.length).filter (fun w => w.client == c)).foldl
              (fun q w => postEntry w.slot .ordinary q) (s.client c).queue)) ∧
        (∀ d j, (∀ w ∈ r.waiters.take gens.length, ¬ (w.client = d ∧ w.slot = j)) → t.slot d j = s.slot d j) ∧
        (∀ ch, r.gate ≠ some ch ∨ gens = [] ∨ Settling s r → t.channel ch = s.channel ch) ∧
        OutsideKept s t

namespace Sys2Proof.Claims

/-- The value after a generation: plus 1, or 1 after 4294967295 (R116). -/
def successor (g : Gen) : Gen := if g = 0xFFFFFFFF#32 then 1#32 else g + 1#32

/-- Some holding slot of the chip carries the generation. -/
def Carried (s : State) (g : Gen) : Prop := ∃ c i, (s.slot c i).holdingGen = some g

end Sys2Proof.Claims

/-- R116: the generation drawn is the first value after the counter that no holding slot carries; it is not 0; the counter and
the granted slot take it. -/
def Obligations.DrawnGenerationIsTheFirstUnheld : Prop :=
  (∀ s : State, ∃ k, k ≤ 128 ∧ s.drawn = Nat.iterate successor (k + 1) s.generation ∧
    (∀ j, j < k → Carried s (Nat.iterate successor (j + 1) s.generation)) ∧ ¬ Carried s s.drawn ∧ s.drawn ≠ 0#32) ∧
  ∀ (s : State) (own : Option ClientId) (n : Name) (w : Waiter) (rest : List Waiter),
    (s.grant own n w rest).generation = s.drawn ∧
      ((s.grant own n w rest).slot w.client w.slot).holding = some (n, w.mode, s.drawn)

/-- R52: CANCEL by the state of its slot. -/
def Obligations.CancelBySlotState : Prop :=
  ∀ (s : State) (p : Port) (h : Header) (slot : Byte),
    let r : Request := ⟨h, .cancel slot⟩
    let c := h.client
    New s p r →
      (7 < slot.toNat → exec (.cancel p h slot .atFrameEnd) s = .next (completed s p r .badParam .nothing)) ∧
      ∀ i : SlotId, slot.toNat = i.val →
        (∀ n m w, s.slot c i = .waiting n m w →
          exec (.cancel p h slot .atFrameEnd) s =
            .next (completed (((s.leaveQueue n c i).setSlot c i .free).followUp n) p r .ok .nothing)) ∧
        (∀ n m g e, s.slot c i = .ended n m g e →
          exec (.cancel p h slot .atFrameEnd) s =
            .next (completed ((s.setSlot c i .free).unpost c i) p r .late (.late e))) ∧
        ((s.slot c i).isWaiting = false → (s.slot c i).isEnded = false →
          exec (.cancel p h slot .atFrameEnd) s = .next (completed s p r .notWaiting .nothing))

/-- R53, R70 and R81: a raised deadline event ends its slot TIMEOUT, EXPIRED or REVOKED, takes its entry out of its list, posts it
urgent, reports the holder end, and runs the follow-up. That a deadline command for which no event is raised does nothing
is the model's form of a raised event (log entry 5, DEDUCED). -/
def Obligations.DeadlineEventsEndTheirSlots : Prop :=
  (∀ (s : State) (c : ClientId) (i : SlotId) (n : Name) (m : Mode) (v : Clock),
    s.slot c i = .waiting n m (some ⟨v, true⟩) →
      exec (.waitDeadline c i) s =
        .next ((((s.leaveQueue n c i).setSlot c i (.ended n m none .timeout)).post c i .urgent).followUp n)) ∧
  (∀ (s : State) (c : ClientId) (i : SlotId), (∀ n m v, s.slot c i ≠ .waiting n m (some ⟨v, true⟩)) →
    exec (.waitDeadline c i) s = .next s) ∧
  (∀ (s : State) (c : ClientId) (i : SlotId) (n : Name) (m : Mode) (g : Gen) (v : Clock),
    s.slot c i = .held n m g ⟨v, true⟩ ∨ (∃ d, s.slot c i = .recalled n m g ⟨v, true⟩ d) →
      exec (.expiry c i) s =
        .next (((((s.leaveHolders n c i).setSlot c i (.ended n m (some g) .expired)).post c i .urgent).holderEnd n).followUp
          n)) ∧
  (∀ (s : State) (c : ClientId) (i : SlotId), (∀ n m g v, s.slot c i ≠ .held n m g ⟨v, true⟩) →
    (∀ n m g v d, s.slot c i ≠ .recalled n m g ⟨v, true⟩ d) → exec (.expiry c i) s = .next s) ∧
  (∀ (s : State) (c : ClientId) (i : SlotId) (n : Name) (m : Mode) (g : Gen) (l : Deadline) (v : Clock),
    s.slot c i = .recalled n m g l ⟨v, true⟩ →
      exec (.revocation c i) s =
        .next (((((s.leaveHolders n c i).setSlot c i (.ended n m (some g) .revoked)).post c i .urgent).holderEnd n).followUp
          n)) ∧
  ∀ (s : State) (c : ClientId) (i : SlotId), (∀ n m g l v, s.slot c i ≠ .recalled n m g l ⟨v, true⟩) →
    exec (.revocation c i) s = .next s

/-! ### Leases and recall -/

namespace Sys2Proof.Claims

/-- A slot after a renewal (R63): a HELD or RECALLED slot with its lease deadline rewritten from its resource's record. -/
def renewed (s : State) : Slot → Slot
  | .held n m g l =>
    match s.find n with
    | some r => .held n m g (leaseEnd s r)
    | none => .held n m g l
  | .recalled n m g l d =>
    match s.find n with
    | some r => .recalled n m g (leaseEnd s r) d
    | none => .recalled n m g l d
  | x => x

end Sys2Proof.Claims

/-- R62, R63 and R64: RENEW by the state of its slot, and RENEW_ALL over the client's HELD and RECALLED slots; both change lease
deadlines alone. -/
def Obligations.RenewalRewritesLeaseDeadlines : Prop :=
  (∀ (s : State) (p : Port) (h : Header) (slot : Byte),
    let r : Request := ⟨h, .renew slot⟩
    let c := h.client
    New s p r →
      (7 < slot.toNat → exec (.renew p h slot .atFrameEnd) s = .next (completed s p r .badParam .nothing)) ∧
      ∀ i : SlotId, slot.toNat = i.val →
        (∀ n m g l rec, s.slot c i = .held n m g l → s.find n = some rec →
          exec (.renew p h slot .atFrameEnd) s =
            .next (completed (s.setSlot c i (.held n m g (leaseEnd s rec))) p r .ok
              (.renewed .held (leaseEnd s rec).value))) ∧
        (∀ n m g l d rec, s.slot c i = .recalled n m g l d → s.find n = some rec →
          exec (.renew p h slot .atFrameEnd) s =
            .next (completed (s.setSlot c i (.recalled n m g (leaseEnd s rec) d)) p r .ok
              (.renewed .recalled (leaseEnd s rec).value))) ∧
        ((s.slot c i).isGating = true →
          exec (.renew p h slot .atFrameEnd) s = .next (completed s p r .pending .nothing)) ∧
        ((s.slot c i).holdingGen = none →
          exec (.renew p h slot .atFrameEnd) s = .next (completed s p r .notHeld .nothing))) ∧
  ∀ (s : State) (p : Port) (h : Header), New s p ⟨h, .renewAll⟩ →
    (∀ i n m g, (s.slot h.client i).holding = some (n, m, g) → s.find n ≠ none) →
      exec (.renewAll p h .atFrameEnd) s =
        .next (completed
          (s.setClient h.client { s.client h.client with
            slots := Vector.ofFn (fun i => renewed s (s.slot h.client i)) })
          p ⟨h, .renewAll⟩ .ok (.count (slotCount s h.client Slot.leased)))

/-- R66 to R69: RELEASE by the state of its slot. -/
def Obligations.ReleaseBySlotState : Prop :=
  ∀ (s : State) (p : Port) (h : Header) (slot : Byte),
    let r : Request := ⟨h, .release slot⟩
    let c := h.client
    New s p r →
      (7 < slot.toNat → exec (.release p h slot .atFrameEnd) s = .next (completed s p r .badParam .nothing)) ∧
      ∀ i : SlotId, slot.toNat = i.val →
        (∀ n m g, (s.slot c i).leased = true → (s.slot c i).holding = some (n, m, g) →
          exec (.release p h slot .atFrameEnd) s =
            .next (completed (((((s.leaveHolders n c i).holderEnd n).setSlot c i .free).unpost c i).followUp n) p r
              .ok .nothing)) ∧
        (∀ n m g, s.slot c i = .gating n m g →
          exec (.release p h slot .atFrameEnd) s =
            .next (completed (((s.leaveHolders n c i).setSlot c i .free).followUp n) p r .ok .nothing)) ∧
        (∀ n m g e, s.slot c i = .ended n m g e →
          exec (.release p h slot .atFrameEnd) s =
            .next (completed ((s.setSlot c i .free).unpost c i) p r .late (.late e))) ∧
        (s.slot c i = .free ∨ (s.slot c i).isWaiting = true →
          exec (.release p h slot .atFrameEnd) s = .next (completed s p r .notHeld .nothing))

namespace Sys2Proof.Claims

/-- A candidate for the designated holder (R76): HELD or RECALLED, its client less urgent than the head waiter. -/
def Candidate (s : State) (w : Waiter) (h : Holder) : Prop :=
  (s.slot h.client h.slot).leased = true ∧ w.priority < (s.client h.client).priority

/-- The candidates among which the designated holder is chosen (R76): the RECALLED ones where there is one. -/
def Preferred (s : State) (r : Record) (w : Waiter) (h : Holder) : Prop :=
  Candidate s w h ∧
    ((∃ x ∈ r.holders, Candidate s w x ∧ (s.slot x.client x.slot).isRecalled = true) →
      (s.slot h.client h.slot).isRecalled = true)

/-- The designated holder (R76): the least urgent of those, among equals the one nearest the tail of the holder list. -/
def Designated (s : State) (r : Record) (w : Waiter) (h : Holder) : Prop :=
  Preferred s r w h ∧
    ∃ pre post, r.holders = pre ++ h :: post ∧
      (∀ x ∈ pre, Preferred s r w x → (s.client x.client).priority ≤ (s.client h.client).priority) ∧
      (∀ x ∈ post, Preferred s r w x → (s.client x.client).priority < (s.client h.client).priority)

/-- A blocking holder for the head waiter (R75, R76, Table 5-1). -/
def Blocking (s : State) (r : Record) (w : Waiter) (h : Holder) : Prop :=
  w.mode = .exclusive ∨
    (w.mode = .shared ∧ (∃ x ∈ r.holders, x.mode = .exclusive) ∧ h.mode = .exclusive) ∨
    (w.mode = .shared ∧ (∀ x ∈ r.holders, x.mode ≠ .exclusive) ∧ Designated s r w h)

/-- The recall condition (R74). -/
def RecallCondition (s : State) (r : Record) (h : Holder) : Prop :=
  r.recallGrace ≠ 0#16 ∧
    ∃ w ∈ r.waiters.head?, r.compatible w.mode = false ∧ (s.slot h.client h.slot).leased = true ∧
      w.priority < (s.client h.client).priority ∧ Blocking s r w h

end Sys2Proof.Claims

/-- R74, R75 and R76: the recall condition that evaluation tests for a holder of a record. -/
def Obligations.RecallConditionClauses : Prop :=
  ∀ (s : State) (r : Record) (h : Holder), h ∈ r.holders →
    (s.recallCondition r h = true ↔ RecallCondition s r h)

/-- R78, R79 and R80: recall evaluation decides every holder from the state before it changes any: a HELD slot that meets the
condition becomes RECALLED with its recall deadline, a RECALLED slot that does not returns to HELD; each change is
posted, urgent or ordinary, in holder-list order; nothing else changes, in a client context or elsewhere. -/
def Obligations.RecallEvaluationDecidesEachHolder : Prop :=
  ∀ (s : State) (n : Name) (r : Record), ListsBacked s → DirectoryLawful s → s.find n = some r →
    let t := s.evalRecall n
    (∀ h ∈ r.holders,
      (∀ a b g l, s.slot h.client h.slot = .held a b g l → RecallCondition s r h →
        t.slot h.client h.slot = .recalled a b g l (dueIn s r.recallGrace)) ∧
      (∀ a b g l d, s.slot h.client h.slot = .recalled a b g l d → ¬ RecallCondition s r h →
        t.slot h.client h.slot = .held a b g l) ∧
      (∀ a b g l, s.slot h.client h.slot = .held a b g l → ¬ RecallCondition s r h →
        t.slot h.client h.slot = s.slot h.client h.slot) ∧
      (∀ a b g l d, s.slot h.client h.slot = .recalled a b g l d → RecallCondition s r h →
        t.slot h.client h.slot = s.slot h.client h.slot) ∧
      ((s.slot h.client h.slot).isGating = true → t.slot h.client h.slot = s.slot h.client h.slot)) ∧
    (∀ c i, (∀ h ∈ r.holders, ¬ (h.client = c ∧ h.slot = i)) → t.slot c i = s.slot c i) ∧
    (∃ posts : List (Holder × EntryClass),
      (posts.map (·.1)).Sublist r.holders ∧
      (∀ x ∈ posts, t.slot x.1.client x.1.slot ≠ s.slot x.1.client x.1.slot) ∧
      (∀ h ∈ r.holders, t.slot h.client h.slot ≠ s.slot h.client h.slot →
        (h, if (t.slot h.client h.slot).isRecalled then EntryClass.urgent else .ordinary) ∈ posts) ∧
      ∀ c, (t.client c).queue =
        (posts.filter (fun x => x.1.client == c)).foldl (fun q x => postEntry x.1.slot x.2 q) (s.client c).queue) ∧
    (∀ c, t.client c = { s.client c with slots := (t.client c).slots, queue := (t.client c).queue }) ∧
    t.records = s.records ∧ t.channels = s.channels ∧ t.generation = s.generation ∧ OutsideKept s t

/-! ### Gate channels and output pins -/

/-- R94 and R95, with the count of R93 (log entry 6): the settle timer of a SETTLING channel counts, and at the dead time the
settle ends: an unbound channel becomes free, a bound one connects the branch of its GATING holder, whose lease begins
and is posted and evaluated, or becomes DISCONNECTED. An idle timer does not count. -/
def Obligations.SettleEndConnectsOrFrees : Prop :=
  (∀ (s : State) (g : ChannelId) (us e : Nat) (dead : Half), (s.channel g).state = .settling e →
    (s.channel g).deadTime = some dead →
      (e + us < dead.toNat →
        exec (.settleEnd g us) s = .next (s.setChannel g { s.channel g with state := .settling (e + us) })) ∧
      (dead.toNat ≤ e + us →
        ((s.channel g).binding = none →
          exec (.settleEnd g us) s =
            .next (s.setChannel g { binding := none, deadTime := none, state := .disconnected })) ∧
        ∀ n r, (s.channel g).binding = some n → s.find n = some r →
          ((∀ h ∈ r.holders, (s.slot h.client h.slot).isGating = false) →
            exec (.settleEnd g us) s = .next (s.setChannel g { s.channel g with state := .disconnected })) ∧
          ∀ pre h post m gen, r.holders = pre ++ h :: post →
            (∀ x ∈ pre, (s.slot x.client x.slot).isGating = false) → s.slot h.client h.slot = .gating n m gen →
              exec (.settleEnd g us) s = .next
                ((((s.setChannel g { s.channel g with
                    state := .connected (s.client h.client).branch }).setSlot h.client h.slot
                    (.held n m gen (leaseEnd s r))).post h.client h.slot .ordinary).evalRecall n))) ∧
  ∀ (s : State) (g : ChannelId) (us : Nat), (s.channel g).isSettling = false → exec (.settleEnd g us) s = .next s

/-- R89 with Table 6-2, and the level of the attention line by R113: the output pins in each state, the order in which the lines
of a channel move, and a port's line active exactly while an open client of the port has a change. -/
def Obligations.OutputPinsFollowTheTables : Prop :=
  (∀ b : Branch, (GateState.connected b).enable = true ∧ (GateState.connected b).branchLines = BitVec.ofNat 3 b.val ∧
    (GateState.connected b).timerRuns = false) ∧
  (∀ e : Nat, (GateState.settling e).enable = false ∧ (GateState.settling e).branchLines = 0#3 ∧
    (GateState.settling e).timerRuns = true) ∧
  (GateState.disconnected.enable = false ∧ GateState.disconnected.branchLines = 0#3 ∧
    GateState.disconnected.timerRuns = false) ∧
  (∀ (x : GateState) (b : Branch), x.enable = false →
    lineSteps x (.connected b) = [(false, BitVec.ofNat 3 b.val), (true, BitVec.ofNat 3 b.val)] ∧
    lineSteps (.connected b) x = [(false, BitVec.ofNat 3 b.val), (false, 0#3)]) ∧
  ∀ (s : State) (p : Port), s.attention p = true ↔
    ∃ c : ClientId, (s.client c).state ≠ .closed ∧ (s.client c).port = some p ∧ (s.client c).queue ≠ []

/-! ### Change queues and reports -/

/-- R105: a posting by the entry the slot already has; the queue's two parts keep their order, the mark is set, no class is
lowered, and nothing else of the state changes. -/
def Obligations.PostingByEntry : Prop :=
  ∀ (s : State) (c : ClientId) (i : SlotId) (cls : EntryClass), ChangeQueuesLawful s →
    let q := (s.client c).queue
    let urgents := q.filter (fun e => e.cls == .urgent)
    let t := s.post c i cls
    t = s.setClient c { s.client c with queue := (t.client c).queue } ∧ t.changedMark c i = true ∧
      ((∀ e ∈ q, e.slot ≠ i) → cls = .urgent →
        (t.client c).queue = urgents ++ ⟨i, .urgent⟩ :: q.filter (fun e => e.cls == .ordinary)) ∧
      ((∀ e ∈ q, e.slot ≠ i) → cls = .ordinary → (t.client c).queue = q ++ [⟨i, .ordinary⟩]) ∧
      ((⟨i, .urgent⟩ : Entry) ∈ q → (t.client c).queue = q) ∧
      ((⟨i, .ordinary⟩ : Entry) ∈ q → cls = .urgent →
        (t.client c).queue =
          urgents ++ ⟨i, .urgent⟩ :: q.filter (fun e => e.cls == .ordinary && e.slot != i)) ∧
      ((⟨i, .ordinary⟩ : Entry) ∈ q → cls = .ordinary → (t.client c).queue = q)

/-- R110: FETCH answers EMPTY on an empty queue; else the view of the head entry's slot and the number of entries left, removes the
head entry, and frees an ENDED slot. -/
def Obligations.FetchTakesTheHeadEntry : Prop :=
  ∀ (s : State) (p : Port) (h : Header), New s p ⟨h, .fetch⟩ →
    ((s.client h.client).queue = [] →
      exec (.fetch p h .atFrameEnd) s = .next (completed s p ⟨h, .fetch⟩ .empty .nothing)) ∧
    ∀ (e : Entry) (rest : List Entry), (s.client h.client).queue = e :: rest →
      ((s.slot h.client e.slot).isEnded = true →
        exec (.fetch p h .atFrameEnd) s =
          .next (completed ((s.setClient h.client { s.client h.client with queue := rest }).setSlot h.client e.slot .free)
            p ⟨h, .fetch⟩ .ok (.fetched (viewOf e.slot true (s.slot h.client e.slot)) rest.length))) ∧
      ((s.slot h.client e.slot).isEnded = false →
        exec (.fetch p h .atFrameEnd) s =
          .next (completed (s.setClient h.client { s.client h.client with queue := rest })
            p ⟨h, .fetch⟩ .ok (.fetched (viewOf e.slot true (s.slot h.client e.slot)) rest.length))) ∧
      (ChangeQueuesLawful s → rest.length ≤ 7 ∧ ∀ x ∈ rest, x.slot ≠ e.slot) ∧
      (ClosedAndMarked s → (s.slot h.client e.slot).leased = true ∨ (s.slot h.client e.slot).isEnded = true)

/-- R112, R119 and R121: SLOT_READ answers the slot's view in any state, CHECK whether a HELD or RECALLED holder of the resource
carries the generation, QUERY the resource view; each changes nothing. -/
def Obligations.ReportsChangeNothing : Prop :=
  (∀ (s : State) (p : Port) (h : Header) (slot : Byte), New s p ⟨h, .slotRead slot⟩ →
    (7 < slot.toNat → exec (.slotRead p h slot .atFrameEnd) s =
      .next (completed s p ⟨h, .slotRead slot⟩ .badParam .nothing)) ∧
    ∀ i : SlotId, slot.toNat = i.val → ∀ mark, (mark = true ↔ ∃ e ∈ (s.client h.client).queue, e.slot = i) →
      exec (.slotRead p h slot .atFrameEnd) s =
        .next (completed s p ⟨h, .slotRead slot⟩ .ok (.slotView (viewOf i mark (s.slot h.client i))))) ∧
  (∀ (s : State) (p : Port) (h : Header) (n : Name) (g : Gen), New s p ⟨h, .check n g⟩ →
    (n = 0#16 → exec (.check p h n g .atFrameEnd) s = .next (completed s p ⟨h, .check n g⟩ .badParam .nothing)) ∧
    (n ≠ 0#16 → s.find n = none →
      exec (.check p h n g .atFrameEnd) s = .next (completed s p ⟨h, .check n g⟩ .noResource .nothing)) ∧
    ∀ r, n ≠ 0#16 → s.find n = some r →
      (∀ x ∈ r.holders, x.generation = g → (s.slot x.client x.slot).leased = true →
        (∀ y ∈ r.holders, y.generation = g → y = x) →
          exec (.check p h n g .atFrameEnd) s =
            .next (completed s p ⟨h, .check n g⟩ .valid (.valid x.client x.slot x.mode))) ∧
      ((∀ x ∈ r.holders, x.generation = g → (s.slot x.client x.slot).leased = false) →
        exec (.check p h n g .atFrameEnd) s = .next (completed s p ⟨h, .check n g⟩ .stale .nothing)) ∧
      (ListsBacked s → GenerationsDistinct s → r ∈ s.records →
        ∀ x ∈ r.holders, ∀ y ∈ r.holders, x.generation = y.generation → y = x)) ∧
  ∀ (s : State) (p : Port) (h : Header) (n : Name), New s p ⟨h, .query n⟩ →
    (n = 0#16 → exec (.query p h n .atFrameEnd) s = .next (completed s p ⟨h, .query n⟩ .badParam .nothing)) ∧
    (n ≠ 0#16 → s.find n = none →
      exec (.query p h n .atFrameEnd) s = .next (completed s p ⟨h, .query n⟩ .noResource .nothing)) ∧
    ∀ r, n ≠ 0#16 → s.find n = some r → ∀ gate : Option (ChannelId × Half),
      (r.gate = none → gate = none) →
      (∀ ch, r.gate = some ch → ∃ d, (s.channel ch).deadTime = some d ∧ gate = some (ch, d)) →
        exec (.query p h n .atFrameEnd) s = .next (completed s p ⟨h, .query n⟩ .ok (.resourceView
          { name := n, state := r.state, rank := r.rank, shareLimit := r.shareLimit, leaseTerm := r.leaseTerm
            recallGrace := r.recallGrace, gate := gate
            holders := r.holders.map (fun x =>
              { client := x.client, slot := x.slot, mode := x.mode, generation := x.generation
                state := (s.slot x.client x.slot).tag })
            waiterCount := r.waiters.length
            headPriority := r.waiters.head?.map (·.priority) }))

/-- R123: DIRECTORY answers the lowest twelve names at or above the starting name, ascending, and whether more follow. -/
def Obligations.DirectoryPagesTheNames : Prop :=
  ∀ (s : State) (p : Port) (h : Header) (start : Name), DirectoryLawful s → New s p ⟨h, .directory start⟩ →
    ∃ (page : List Name) (more : Bool),
      exec (.directory p h start .atFrameEnd) s =
        .next (completed s p ⟨h, .directory start⟩ .ok (.page more page)) ∧
      page.length ≤ 12 ∧ page.Pairwise (fun a b => a.toNat < b.toNat) ∧
      (∀ n ∈ page, start.toNat ≤ n.toNat ∧ ∃ r ∈ s.records, r.name = n) ∧
      (∀ r ∈ s.records, start.toNat ≤ r.name.toNat → r.name ∉ page →
        page.length = 12 ∧ ∀ n ∈ page, n.toNat < r.name.toNat) ∧
      (more = true ↔ page ≠ [] ∧ ∃ r ∈ s.records, ∀ n ∈ page, n.toNat < r.name.toNat)

/-! ### Administration -/

namespace Sys2Proof.Claims

/-- The admin check of R6 and the checks of R7, in their order. -/
def defineChecks (s : State) (c : ClientId) (d : DefineParams) : List (Prop × Status) :=
  [((s.client c).admin = false, .notAdmin),
   (d.name = 0#16 ∨ 15 < d.rank.toNat ∨ d.shareLimit = 0#8 ∨ 8 < d.shareLimit.toNat ∨ d.leaseTerm = 0#16 ∨
      1 < d.gatePresent.toNat ∨
      (d.gatePresent = 1#8 ∧ (15 < d.gateChannel.toNat ∨ d.deadTime = 0#16 ∨ 1000 < d.deadTime.toNat ∨
        1 < d.shareLimit.toNat)), .badParam),
   (s.find d.name ≠ none, .duplicate),
   (128 ≤ s.records.length, .dirFull),
   (d.gatePresent = 1#8 ∧ ∃ g : ChannelId, d.gateChannel.toNat = g.val ∧
      ((s.channel g).binding ≠ none ∨ (s.channel g).state ≠ .disconnected), .channelBusy)]

/-- The record that an accepted DEFINE creates (R8). -/
def definedRecord (d : DefineParams) (rank : Fin 16) (gate : Option ChannelId) : Record :=
  { name := d.name, state := .active, rank := rank, shareLimit := d.shareLimit.toNat, leaseTerm := d.leaseTerm
    recallGrace := d.recallGrace, gate := gate, holders := [], waiters := [] }

/-- The admin check of R6 and the checks of R9, in their order. -/
def amendChecks (s : State) (c : ClientId) (a : AmendParams) : List (Prop × Status) :=
  [((s.client c).admin = false, .notAdmin),
   (a.name = 0#16 ∨ a.leaseTerm = 0#16 ∨ a.shareLimit = 0#8 ∨ 8 < a.shareLimit.toNat ∨ 15 < a.rank.toNat, .badParam),
   (s.find a.name = none, .noResource),
   (∃ r, s.find a.name = some r ∧ r.gate ≠ none ∧ a.shareLimit ≠ 1#8, .badParam),
   (∃ r, s.find a.name = some r ∧ a.shareLimit.toNat < r.holders.length, .badParam),
   (∃ r, s.find a.name = some r ∧ a.rank.toNat ≠ r.rank.val ∧ (r.holders ≠ [] ∨ r.waiters ≠ []), .resourceBusy)]

/-- The admin check of R6 and the checks of R12, in their order. -/
def retireChecks (s : State) (c : ClientId) (n : Name) (mode : Byte) : List (Prop × Status) :=
  [((s.client c).admin = false, .notAdmin),
   (n = 0#16 ∨ (mode ≠ 0#8 ∧ mode ≠ 1#8), .badParam),
   (s.find n = none, .noResource)]

/-- The checks of R117, in their order. -/
def seedChecks (s : State) (c : ClientId) (value : Gen) : List (Prop × Status) :=
  [((s.client c).admin = false, .notAdmin), (value = 0#32, .badParam), (s.generation ≠ 0#32, .badState)]

end Sys2Proof.Claims

/-- R7 and R8: DEFINE is refused by the first check that fails, or puts the record at its place in name order and binds the
channel it names, which takes the dead time and stays DISCONNECTED. -/
def Obligations.DefineCreatesTheRecord : Prop :=
  ∀ (s : State) (p : Port) (h : Header) (d : DefineParams), New s p ⟨h, .define d⟩ →
    (∀ st, FirstFailing (defineChecks s h.client d) st →
      exec (.define p h d .atFrameEnd) s = .next (completed s p ⟨h, .define d⟩ st .nothing)) ∧
    (DirectoryLawful s → AllPass (defineChecks s h.client d) →
      ∃ (rank : Fin 16) (pre post : List Record), rank.val = d.rank.toNat ∧ s.records = pre ++ post ∧
        (∀ x ∈ pre, x.name.toNat < d.name.toNat) ∧ (∀ x ∈ post, d.name.toNat < x.name.toNat) ∧
        (d.gatePresent = 0#8 →
          exec (.define p h d .atFrameEnd) s = .next (completed
            { s with records := pre ++ definedRecord d rank none :: post } p ⟨h, .define d⟩ .ok .nothing)) ∧
        ∀ g : ChannelId, d.gatePresent = 1#8 → d.gateChannel.toNat = g.val →
          exec (.define p h d .atFrameEnd) s = .next (completed
            { s.setChannel g { binding := some d.name, deadTime := some d.deadTime, state := .disconnected } with
              records := pre ++ definedRecord d rank (some g) :: post } p ⟨h, .define d⟩ .ok .nothing))

/-- R9, R10 and R11: AMEND is refused by the first check that fails, or writes the four values into the record, leaves every
deadline, and runs the grant pass and then recall evaluation. -/
def Obligations.AmendWritesFourValues : Prop :=
  ∀ (s : State) (p : Port) (h : Header) (a : AmendParams), New s p ⟨h, .amend a⟩ →
    (∀ st, FirstFailing (amendChecks s h.client a) st →
      exec (.amend p h a .atFrameEnd) s = .next (completed s p ⟨h, .amend a⟩ st .nothing)) ∧
    ∀ rank : Fin 16, AllPass (amendChecks s h.client a) → a.rank.toNat = rank.val →
      let u := s.updateRecord a.name (fun x => { x with
        leaseTerm := a.leaseTerm, recallGrace := a.recallGrace, shareLimit := a.shareLimit.toNat, rank := rank })
      exec (.amend p h a .atFrameEnd) s =
          .next (completed ((u.grantPass none a.name).evalRecall a.name) p ⟨h, .amend a⟩ .ok .nothing) ∧
        u.clients = s.clients ∧ u.channels = s.channels ∧ u.generation = s.generation ∧ OutsideKept s u ∧
        (∀ k, k ≠ a.name → u.find k = s.find k) ∧
        ∀ r, s.find a.name = some r → u.find a.name = some { r with
          leaseTerm := a.leaseTerm, recallGrace := a.recallGrace, shareLimit := a.shareLimit.toNat, rank := rank }

/-- R12, R13, R14 and R17: a graceful RETIRE is refused by the first check that fails; it leaves a DRAINING record as it is, removes
a record with no holder, and else ends every waiter RETIRED, makes the record DRAINING and withdraws every recall. -/
def Obligations.RetireGracefulDrains : Prop :=
  ∀ (s : State) (p : Port) (h : Header) (n : Name) (mode : Byte), New s p ⟨h, .retire n mode⟩ →
    (∀ st, mode ≠ 1#8 → FirstFailing (retireChecks s h.client n mode) st →
      exec (.retireGraceful p h n mode .atFrameEnd) s = .next (completed s p ⟨h, .retire n mode⟩ st .nothing)) ∧
    ∀ r, mode = 0#8 → AllPass (retireChecks s h.client n mode) → s.find n = some r →
      (r.state = .draining →
        exec (.retireGraceful p h n mode .atFrameEnd) s =
          .next (completed s p ⟨h, .retire n mode⟩ .ok (.retired .draining 0))) ∧
      (r.state = .active → r.holders = [] →
        ∃ t, exec (.retireGraceful p h n mode .atFrameEnd) s =
            .next (completed t p ⟨h, .retire n mode⟩ .ok (.retired .removed 0)) ∧
          t.records = s.records.filter (fun x => x.name != n) ∧ t.clients = s.clients ∧
          t.generation = s.generation ∧ OutsideKept s t ∧
          (∀ g, r.gate = some g → Unbound (s.channel g) (t.channel g)) ∧
          ∀ g, r.gate ≠ some g → t.channel g = s.channel g) ∧
      (ListsAgree s → r.state = .active → r.holders ≠ [] →
        ∃ t, exec (.retireGraceful p h n mode .atFrameEnd) s =
            .next (completed t p ⟨h, .retire n mode⟩ .ok (.retired .draining r.waiters.length)) ∧
          t.find n = some { r with state := .draining, waiters := [] } ∧ (∀ k, k ≠ n → t.find k = s.find k) ∧
          t.channels = s.channels ∧ t.generation = s.generation ∧ OutsideKept s t ∧
          (∀ w ∈ r.waiters, t.slot w.client w.slot = .ended n w.mode none .retired ∧
            (⟨w.slot, .urgent⟩ : Entry) ∈ (t.client w.client).queue) ∧
          (∀ x ∈ r.holders,
            (∀ a b g l d, s.slot x.client x.slot = .recalled a b g l d →
              t.slot x.client x.slot = .held a b g l ∧ t.changedMark x.client x.slot = true) ∧
            ((s.slot x.client x.slot).isRecalled = false → t.slot x.client x.slot = s.slot x.client x.slot)) ∧
          ∀ c i, (∀ w ∈ r.waiters, ¬ (w.client = c ∧ w.slot = i)) →
            (∀ x ∈ r.holders, ¬ (x.client = c ∧ x.slot = i)) → t.slot c i = s.slot c i)

/-- R12, R16 and R17: an immediate RETIRE is refused by the first check that fails, or ends every holder and every waiter with cause
RETIRED, holders keeping their generation, removes the record and unbinds its channel, a CONNECTED one settling. -/
def Obligations.RetireImmediateEndsEverything : Prop :=
  ∀ (s : State) (p : Port) (h : Header) (n : Name), New s p ⟨h, .retire n 1#8⟩ →
    (∀ st, FirstFailing (retireChecks s h.client n 1#8) st →
      exec (.retireImmediate p h n .atFrameEnd) s = .next (completed s p ⟨h, .retire n 1#8⟩ st .nothing)) ∧
    ∀ r, ListsAgree s → AllPass (retireChecks s h.client n 1#8) → s.find n = some r →
      ∃ t, exec (.retireImmediate p h n .atFrameEnd) s =
          .next (completed t p ⟨h, .retire n 1#8⟩ .ok
            (.retired .removed (r.holders.length + r.waiters.length))) ∧
        t.records = s.records.filter (fun x => x.name != n) ∧ t.generation = s.generation ∧ OutsideKept s t ∧
        (∀ x ∈ r.holders, t.slot x.client x.slot = .ended n x.mode (some x.generation) .retired ∧
          (⟨x.slot, .urgent⟩ : Entry) ∈ (t.client x.client).queue) ∧
        (∀ w ∈ r.waiters, t.slot w.client w.slot = .ended n w.mode none .retired ∧
          (⟨w.slot, .urgent⟩ : Entry) ∈ (t.client w.client).queue) ∧
        (∀ c i, (∀ w ∈ r.waiters, ¬ (w.client = c ∧ w.slot = i)) →
          (∀ x ∈ r.holders, ¬ (x.client = c ∧ x.slot = i)) → t.slot c i = s.slot c i) ∧
        (∀ g, r.gate ≠ some g → t.channel g = s.channel g) ∧
        ∀ g, r.gate = some g → Unbound (s.channel g) (t.channel g) ∧
          ∀ b, (s.channel g).state = .connected b →
            (∃ x ∈ r.holders, (s.slot x.client x.slot).leased = true) →
              (t.channel g).state = .settling 0 ∧ (t.channel g).deadTime = (s.channel g).deadTime

/-- R117: SEED is refused by the first check that fails, so with BAD_STATE whenever the counter is not 0, or writes the counter;
the next grant then draws the value after the seed. -/
def Obligations.SeedSetsTheCounter : Prop :=
  ∀ (s : State) (p : Port) (h : Header) (value : Gen), New s p ⟨h, .seed value⟩ →
    (∀ st, FirstFailing (seedChecks s h.client value) st →
      exec (.seed p h value .atFrameEnd) s = .next (completed s p ⟨h, .seed value⟩ st .nothing)) ∧
    (AllPass (seedChecks s h.client value) →
      exec (.seed p h value .atFrameEnd) s =
        .next (completed { s with generation := value } p ⟨h, .seed value⟩ .ok .nothing) ∧
      (CounterLawful s → ({ s with generation := value } : State).drawn = successor value))

/-! ### Reset and the clock -/

/-- R5, R21, R58, R103, R115 and R137: what a chip reset leaves, in every state; while the reset lasts no frame is recognised (log
entry 7, DEDUCED) and the clock does not count, and the end of the reset changes nothing else. The queue of commands is the
environment's (log entry 4). -/
def Obligations.ChipResetLeavesNothing : Prop :=
  (∀ s : State, ∃ t, exec .chipReset s = .next t ∧ t.clock = 0#40 ∧ t.inReset = true ∧ t.generation = 0#32 ∧
    t.records = [] ∧
    (∀ c, (t.client c).state = .closed ∧ (t.client c).port = none ∧ (t.client c).branch = 0 ∧
      (t.client c).priority = 0 ∧ (t.client c).admin = false ∧ (t.client c).cache = none ∧
      (t.client c).queue = [] ∧ ∀ i, t.slot c i = .free) ∧
    (∀ g, (t.channel g).binding = none ∧ (t.channel g).deadTime = none ∧ (t.channel g).state = .disconnected) ∧
    (∀ p, (t.port p).link = .up ∧ (t.port p).score = 0 ∧ (t.port p).slot = .empty ∧ (t.port p).badFrames = 0#16 ∧
      (t.port p).overruns = 0#16 ∧ (t.port p).frame = none ∧ (t.port p).faultReport = false ∧
      t.attention p = false) ∧
    t.pending = s.pending) ∧
  (∀ (s : State) (p : Port), s.inReset = true → exec (.frameStart p) s = .next s) ∧
  (∀ s : State, s.inReset = true → exec .leaseClockTick s = .next s) ∧
  ∀ s : State, exec .endOfReset s = .next { s with inReset := false }

namespace Sys2Proof.Claims

/-- A deadline when the clock reaches `now`: its event is raised if it holds that value (R59). -/
def reached (now : Clock) (d : Deadline) : Deadline :=
  { value := d.value, raised := d.raised || decide (d.value = now) }

/-- A slot when the clock reaches `now` (R59). -/
def slotAt (now : Clock) : Slot → Slot
  | .waiting n m (some d) => .waiting n m (some (reached now d))
  | .held n m g l => .held n m g (reached now l)
  | .recalled n m g l d => .recalled n m g (reached now l) (reached now d)
  | x => x

end Sys2Proof.Claims

/-- R58 and R59: outside a reset a millisecond advances the clock by one, wrapping, and raises the event of every deadline that
the clock reaches; in a reset it does not count; no other command moves the clock but chip reset. -/
def Obligations.LeaseClockCountsAndRaises : Prop :=
  (∀ s : State, s.inReset = false → ∃ t, exec .leaseClockTick s = .next t ∧
    t.clock.toNat = (s.clock.toNat + 1) % 2 ^ 40 ∧
    (∀ c i, t.slot c i = slotAt t.clock (s.slot c i)) ∧
    (∀ c, t.client c = { s.client c with slots := (t.client c).slots }) ∧
    t.records = s.records ∧ t.ports = s.ports ∧ t.channels = s.channels ∧ t.generation = s.generation ∧
    t.inReset = s.inReset ∧ t.pending = s.pending) ∧
  (∀ s : State, s.inReset = true → exec .leaseClockTick s = .next s) ∧
  ∀ (i : Instr) (s t : State), i ≠ .leaseClockTick → exec i s = .next t →
    (i = .chipReset → t.clock = 0#40) ∧ (i ≠ .chipReset → t.clock = s.clock)

/-! ### Laws that every step keeps -/

/-- Every step keeps the fifth law (R116), and that no slot holds while the counter is 0 (R117). -/
def Obligations.StepKeepsGenerationLaws : Prop :=
  ∀ s t : State, GenerationsDistinct s → CounterLawful s → step s = .next t →
    GenerationsDistinct t ∧ CounterLawful t

/-- Every step keeps the third law (R29) with the first, sixth, seventh, ninth and tenth: the slots, the holder lists, the wait
queues and the change queues agree. -/
def Obligations.StepKeepsSlotsAndListsInAgreement : Prop :=
  ∀ s t : State, ListsAgree s → ScreenedLawful s → step s = .next t → ListsAgree t

/-- Every step keeps all eleven laws of a state together, with the law of a screened request. -/
def Obligations.StepKeepsEveryLaw : Prop :=
  ∀ s t : State, Lawful s → step s = .next t → Lawful t

/-- The machine after reset satisfies every law. -/
def Obligations.ResetSatisfiesEveryLaw : Prop := Lawful State.reset

end Statements
end

