-- ==== Sys2Proof/Laws/State.lean ====
section
/-! SUPPORT. What each update of the state leaves alone, field by field, and what a reader sees of an update. -/

namespace Sys2Proof.Machine

variable (s : State)

/-! ### `setClient` -/

@[simp] theorem State.setClient_pending (c : ClientId) (x : Client) : (s.setClient c x).pending = s.pending := rfl
@[simp] theorem State.setClient_clock (c : ClientId) (x : Client) : (s.setClient c x).clock = s.clock := rfl
@[simp] theorem State.setClient_inReset (c : ClientId) (x : Client) : (s.setClient c x).inReset = s.inReset := rfl
@[simp] theorem State.setClient_generation (c : ClientId) (x : Client) : (s.setClient c x).generation = s.generation := rfl
@[simp] theorem State.setClient_records (c : ClientId) (x : Client) : (s.setClient c x).records = s.records := rfl
@[simp] theorem State.setClient_ports (c : ClientId) (x : Client) : (s.setClient c x).ports = s.ports := rfl
@[simp] theorem State.setClient_channels (c : ClientId) (x : Client) : (s.setClient c x).channels = s.channels := rfl
@[simp] theorem State.setClient_port (c : ClientId) (x : Client) (q : Port) : (s.setClient c x).port q = s.port q := rfl
@[simp] theorem State.setClient_channel (c : ClientId) (x : Client) (h : ChannelId) : (s.setClient c x).channel h = s.channel h := rfl
@[simp] theorem State.setClient_find (c : ClientId) (x : Client) (m : Name) : (s.setClient c x).find m = s.find m := rfl
@[simp] theorem State.setClient_gateOf (c : ClientId) (x : Client) (m : Name) : (s.setClient c x).gateOf m = s.gateOf m := rfl
@[simp] theorem State.setClient_termMs (c : ClientId) (x : Client) (m : Name) : (s.setClient c x).termMs m = s.termMs m := rfl
@[simp] theorem State.setClient_after (c : ClientId) (x : Client) (ms : Nat) : (s.setClient c x).after ms = s.after ms := rfl

/-! ### `setSlot` -/

@[simp] theorem State.setSlot_pending (c : ClientId) (i : SlotId) (x : Slot) : (s.setSlot c i x).pending = s.pending := rfl
@[simp] theorem State.setSlot_clock (c : ClientId) (i : SlotId) (x : Slot) : (s.setSlot c i x).clock = s.clock := rfl
@[simp] theorem State.setSlot_inReset (c : ClientId) (i : SlotId) (x : Slot) : (s.setSlot c i x).inReset = s.inReset := rfl
@[simp] theorem State.setSlot_generation (c : ClientId) (i : SlotId) (x : Slot) : (s.setSlot c i x).generation = s.generation := rfl
@[simp] theorem State.setSlot_records (c : ClientId) (i : SlotId) (x : Slot) : (s.setSlot c i x).records = s.records := rfl
@[simp] theorem State.setSlot_ports (c : ClientId) (i : SlotId) (x : Slot) : (s.setSlot c i x).ports = s.ports := rfl
@[simp] theorem State.setSlot_channels (c : ClientId) (i : SlotId) (x : Slot) : (s.setSlot c i x).channels = s.channels := rfl
@[simp] theorem State.setSlot_port (c : ClientId) (i : SlotId) (x : Slot) (q : Port) : (s.setSlot c i x).port q = s.port q := rfl
@[simp] theorem State.setSlot_channel (c : ClientId) (i : SlotId) (x : Slot) (h : ChannelId) : (s.setSlot c i x).channel h = s.channel h := rfl
@[simp] theorem State.setSlot_find (c : ClientId) (i : SlotId) (x : Slot) (m : Name) : (s.setSlot c i x).find m = s.find m := rfl
@[simp] theorem State.setSlot_gateOf (c : ClientId) (i : SlotId) (x : Slot) (m : Name) : (s.setSlot c i x).gateOf m = s.gateOf m := rfl
@[simp] theorem State.setSlot_termMs (c : ClientId) (i : SlotId) (x : Slot) (m : Name) : (s.setSlot c i x).termMs m = s.termMs m := rfl
@[simp] theorem State.setSlot_after (c : ClientId) (i : SlotId) (x : Slot) (ms : Nat) : (s.setSlot c i x).after ms = s.after ms := rfl

/-! ### `setQueue` -/

@[simp] theorem State.setQueue_pending (c : ClientId) (es : List Entry) : (s.setQueue c es).pending = s.pending := rfl
@[simp] theorem State.setQueue_clock (c : ClientId) (es : List Entry) : (s.setQueue c es).clock = s.clock := rfl
@[simp] theorem State.setQueue_inReset (c : ClientId) (es : List Entry) : (s.setQueue c es).inReset = s.inReset := rfl
@[simp] theorem State.setQueue_generation (c : ClientId) (es : List Entry) : (s.setQueue c es).generation = s.generation := rfl
@[simp] theorem State.setQueue_records (c : ClientId) (es : List Entry) : (s.setQueue c es).records = s.records := rfl
@[simp] theorem State.setQueue_ports (c : ClientId) (es : List Entry) : (s.setQueue c es).ports = s.ports := rfl
@[simp] theorem State.setQueue_channels (c : ClientId) (es : List Entry) : (s.setQueue c es).channels = s.channels := rfl
@[simp] theorem State.setQueue_port (c : ClientId) (es : List Entry) (q : Port) : (s.setQueue c es).port q = s.port q := rfl
@[simp] theorem State.setQueue_channel (c : ClientId) (es : List Entry) (h : ChannelId) : (s.setQueue c es).channel h = s.channel h := rfl
@[simp] theorem State.setQueue_find (c : ClientId) (es : List Entry) (m : Name) : (s.setQueue c es).find m = s.find m := rfl
@[simp] theorem State.setQueue_gateOf (c : ClientId) (es : List Entry) (m : Name) : (s.setQueue c es).gateOf m = s.gateOf m := rfl
@[simp] theorem State.setQueue_termMs (c : ClientId) (es : List Entry) (m : Name) : (s.setQueue c es).termMs m = s.termMs m := rfl
@[simp] theorem State.setQueue_after (c : ClientId) (es : List Entry) (ms : Nat) : (s.setQueue c es).after ms = s.after ms := rfl

/-! ### `post` -/

@[simp] theorem State.post_pending (c : ClientId) (i : SlotId) (k : EntryClass) : (s.post c i k).pending = s.pending := rfl
@[simp] theorem State.post_clock (c : ClientId) (i : SlotId) (k : EntryClass) : (s.post c i k).clock = s.clock := rfl
@[simp] theorem State.post_inReset (c : ClientId) (i : SlotId) (k : EntryClass) : (s.post c i k).inReset = s.inReset := rfl
@[simp] theorem State.post_generation (c : ClientId) (i : SlotId) (k : EntryClass) : (s.post c i k).generation = s.generation := rfl
@[simp] theorem State.post_records (c : ClientId) (i : SlotId) (k : EntryClass) : (s.post c i k).records = s.records := rfl
@[simp] theorem State.post_ports (c : ClientId) (i : SlotId) (k : EntryClass) : (s.post c i k).ports = s.ports := rfl
@[simp] theorem State.post_channels (c : ClientId) (i : SlotId) (k : EntryClass) : (s.post c i k).channels = s.channels := rfl
@[simp] theorem State.post_port (c : ClientId) (i : SlotId) (k : EntryClass) (q : Port) : (s.post c i k).port q = s.port q := rfl
@[simp] theorem State.post_channel (c : ClientId) (i : SlotId) (k : EntryClass) (h : ChannelId) : (s.post c i k).channel h = s.channel h := rfl
@[simp] theorem State.post_find (c : ClientId) (i : SlotId) (k : EntryClass) (m : Name) : (s.post c i k).find m = s.find m := rfl
@[simp] theorem State.post_gateOf (c : ClientId) (i : SlotId) (k : EntryClass) (m : Name) : (s.post c i k).gateOf m = s.gateOf m := rfl
@[simp] theorem State.post_termMs (c : ClientId) (i : SlotId) (k : EntryClass) (m : Name) : (s.post c i k).termMs m = s.termMs m := rfl
@[simp] theorem State.post_after (c : ClientId) (i : SlotId) (k : EntryClass) (ms : Nat) : (s.post c i k).after ms = s.after ms := rfl

/-! ### `unpost` -/

@[simp] theorem State.unpost_pending (c : ClientId) (i : SlotId) : (s.unpost c i).pending = s.pending := rfl
@[simp] theorem State.unpost_clock (c : ClientId) (i : SlotId) : (s.unpost c i).clock = s.clock := rfl
@[simp] theorem State.unpost_inReset (c : ClientId) (i : SlotId) : (s.unpost c i).inReset = s.inReset := rfl
@[simp] theorem State.unpost_generation (c : ClientId) (i : SlotId) : (s.unpost c i).generation = s.generation := rfl
@[simp] theorem State.unpost_records (c : ClientId) (i : SlotId) : (s.unpost c i).records = s.records := rfl
@[simp] theorem State.unpost_ports (c : ClientId) (i : SlotId) : (s.unpost c i).ports = s.ports := rfl
@[simp] theorem State.unpost_channels (c : ClientId) (i : SlotId) : (s.unpost c i).channels = s.channels := rfl
@[simp] theorem State.unpost_port (c : ClientId) (i : SlotId) (q : Port) : (s.unpost c i).port q = s.port q := rfl
@[simp] theorem State.unpost_channel (c : ClientId) (i : SlotId) (h : ChannelId) : (s.unpost c i).channel h = s.channel h := rfl
@[simp] theorem State.unpost_find (c : ClientId) (i : SlotId) (m : Name) : (s.unpost c i).find m = s.find m := rfl
@[simp] theorem State.unpost_gateOf (c : ClientId) (i : SlotId) (m : Name) : (s.unpost c i).gateOf m = s.gateOf m := rfl
@[simp] theorem State.unpost_termMs (c : ClientId) (i : SlotId) (m : Name) : (s.unpost c i).termMs m = s.termMs m := rfl
@[simp] theorem State.unpost_after (c : ClientId) (i : SlotId) (ms : Nat) : (s.unpost c i).after ms = s.after ms := rfl

/-! ### `writeCache` -/

@[simp] theorem State.writeCache_pending (r : Request) (a : Answer) : (s.writeCache r a).pending = s.pending := rfl
@[simp] theorem State.writeCache_clock (r : Request) (a : Answer) : (s.writeCache r a).clock = s.clock := rfl
@[simp] theorem State.writeCache_inReset (r : Request) (a : Answer) : (s.writeCache r a).inReset = s.inReset := rfl
@[simp] theorem State.writeCache_generation (r : Request) (a : Answer) : (s.writeCache r a).generation = s.generation := rfl
@[simp] theorem State.writeCache_records (r : Request) (a : Answer) : (s.writeCache r a).records = s.records := rfl
@[simp] theorem State.writeCache_ports (r : Request) (a : Answer) : (s.writeCache r a).ports = s.ports := rfl
@[simp] theorem State.writeCache_channels (r : Request) (a : Answer) : (s.writeCache r a).channels = s.channels := rfl
@[simp] theorem State.writeCache_port (r : Request) (a : Answer) (q : Port) : (s.writeCache r a).port q = s.port q := rfl
@[simp] theorem State.writeCache_channel (r : Request) (a : Answer) (h : ChannelId) : (s.writeCache r a).channel h = s.channel h := rfl
@[simp] theorem State.writeCache_find (r : Request) (a : Answer) (m : Name) : (s.writeCache r a).find m = s.find m := rfl
@[simp] theorem State.writeCache_gateOf (r : Request) (a : Answer) (m : Name) : (s.writeCache r a).gateOf m = s.gateOf m := rfl
@[simp] theorem State.writeCache_termMs (r : Request) (a : Answer) (m : Name) : (s.writeCache r a).termMs m = s.termMs m := rfl
@[simp] theorem State.writeCache_after (r : Request) (a : Answer) (ms : Nat) : (s.writeCache r a).after ms = s.after ms := rfl

/-! ### `setPort` -/

@[simp] theorem State.setPort_pending (p : Port) (x : PortUnit) : (s.setPort p x).pending = s.pending := rfl
@[simp] theorem State.setPort_clock (p : Port) (x : PortUnit) : (s.setPort p x).clock = s.clock := rfl
@[simp] theorem State.setPort_inReset (p : Port) (x : PortUnit) : (s.setPort p x).inReset = s.inReset := rfl
@[simp] theorem State.setPort_generation (p : Port) (x : PortUnit) : (s.setPort p x).generation = s.generation := rfl
@[simp] theorem State.setPort_records (p : Port) (x : PortUnit) : (s.setPort p x).records = s.records := rfl
@[simp] theorem State.setPort_clients (p : Port) (x : PortUnit) : (s.setPort p x).clients = s.clients := rfl
@[simp] theorem State.setPort_channels (p : Port) (x : PortUnit) : (s.setPort p x).channels = s.channels := rfl
@[simp] theorem State.setPort_client (p : Port) (x : PortUnit) (d : ClientId) : (s.setPort p x).client d = s.client d := rfl
@[simp] theorem State.setPort_slot (p : Port) (x : PortUnit) (d : ClientId) (j : SlotId) : (s.setPort p x).slot d j = s.slot d j := rfl
@[simp] theorem State.setPort_channel (p : Port) (x : PortUnit) (h : ChannelId) : (s.setPort p x).channel h = s.channel h := rfl
@[simp] theorem State.setPort_find (p : Port) (x : PortUnit) (m : Name) : (s.setPort p x).find m = s.find m := rfl
@[simp] theorem State.setPort_gateOf (p : Port) (x : PortUnit) (m : Name) : (s.setPort p x).gateOf m = s.gateOf m := rfl
@[simp] theorem State.setPort_termMs (p : Port) (x : PortUnit) (m : Name) : (s.setPort p x).termMs m = s.termMs m := rfl
@[simp] theorem State.setPort_after (p : Port) (x : PortUnit) (ms : Nat) : (s.setPort p x).after ms = s.after ms := rfl

/-! ### `setResponse` -/

@[simp] theorem State.setResponse_pending (p : Port) (x : ResponseSlot) : (s.setResponse p x).pending = s.pending := rfl
@[simp] theorem State.setResponse_clock (p : Port) (x : ResponseSlot) : (s.setResponse p x).clock = s.clock := rfl
@[simp] theorem State.setResponse_inReset (p : Port) (x : ResponseSlot) : (s.setResponse p x).inReset = s.inReset := rfl
@[simp] theorem State.setResponse_generation (p : Port) (x : ResponseSlot) : (s.setResponse p x).generation = s.generation := rfl
@[simp] theorem State.setResponse_records (p : Port) (x : ResponseSlot) : (s.setResponse p x).records = s.records := rfl
@[simp] theorem State.setResponse_clients (p : Port) (x : ResponseSlot) : (s.setResponse p x).clients = s.clients := rfl
@[simp] theorem State.setResponse_channels (p : Port) (x : ResponseSlot) : (s.setResponse p x).channels = s.channels := rfl
@[simp] theorem State.setResponse_client (p : Port) (x : ResponseSlot) (d : ClientId) : (s.setResponse p x).client d = s.client d := rfl
@[simp] theorem State.setResponse_slot (p : Port) (x : ResponseSlot) (d : ClientId) (j : SlotId) : (s.setResponse p x).slot d j = s.slot d j := rfl
@[simp] theorem State.setResponse_channel (p : Port) (x : ResponseSlot) (h : ChannelId) : (s.setResponse p x).channel h = s.channel h := rfl
@[simp] theorem State.setResponse_find (p : Port) (x : ResponseSlot) (m : Name) : (s.setResponse p x).find m = s.find m := rfl
@[simp] theorem State.setResponse_gateOf (p : Port) (x : ResponseSlot) (m : Name) : (s.setResponse p x).gateOf m = s.gateOf m := rfl
@[simp] theorem State.setResponse_termMs (p : Port) (x : ResponseSlot) (m : Name) : (s.setResponse p x).termMs m = s.termMs m := rfl
@[simp] theorem State.setResponse_after (p : Port) (x : ResponseSlot) (ms : Nat) : (s.setResponse p x).after ms = s.after ms := rfl

/-! ### `setChannel` -/

@[simp] theorem State.setChannel_pending (g : ChannelId) (x : Channel) : (s.setChannel g x).pending = s.pending := rfl
@[simp] theorem State.setChannel_clock (g : ChannelId) (x : Channel) : (s.setChannel g x).clock = s.clock := rfl
@[simp] theorem State.setChannel_inReset (g : ChannelId) (x : Channel) : (s.setChannel g x).inReset = s.inReset := rfl
@[simp] theorem State.setChannel_generation (g : ChannelId) (x : Channel) : (s.setChannel g x).generation = s.generation := rfl
@[simp] theorem State.setChannel_records (g : ChannelId) (x : Channel) : (s.setChannel g x).records = s.records := rfl
@[simp] theorem State.setChannel_clients (g : ChannelId) (x : Channel) : (s.setChannel g x).clients = s.clients := rfl
@[simp] theorem State.setChannel_ports (g : ChannelId) (x : Channel) : (s.setChannel g x).ports = s.ports := rfl
@[simp] theorem State.setChannel_client (g : ChannelId) (x : Channel) (d : ClientId) : (s.setChannel g x).client d = s.client d := rfl
@[simp] theorem State.setChannel_slot (g : ChannelId) (x : Channel) (d : ClientId) (j : SlotId) : (s.setChannel g x).slot d j = s.slot d j := rfl
@[simp] theorem State.setChannel_port (g : ChannelId) (x : Channel) (q : Port) : (s.setChannel g x).port q = s.port q := rfl
@[simp] theorem State.setChannel_find (g : ChannelId) (x : Channel) (m : Name) : (s.setChannel g x).find m = s.find m := rfl
@[simp] theorem State.setChannel_gateOf (g : ChannelId) (x : Channel) (m : Name) : (s.setChannel g x).gateOf m = s.gateOf m := rfl
@[simp] theorem State.setChannel_termMs (g : ChannelId) (x : Channel) (m : Name) : (s.setChannel g x).termMs m = s.termMs m := rfl
@[simp] theorem State.setChannel_after (g : ChannelId) (x : Channel) (ms : Nat) : (s.setChannel g x).after ms = s.after ms := rfl

/-! ### `connect` -/

@[simp] theorem State.connect_pending (g : ChannelId) (b : Branch) : (s.connect g b).pending = s.pending := rfl
@[simp] theorem State.connect_clock (g : ChannelId) (b : Branch) : (s.connect g b).clock = s.clock := rfl
@[simp] theorem State.connect_inReset (g : ChannelId) (b : Branch) : (s.connect g b).inReset = s.inReset := rfl
@[simp] theorem State.connect_generation (g : ChannelId) (b : Branch) : (s.connect g b).generation = s.generation := rfl
@[simp] theorem State.connect_records (g : ChannelId) (b : Branch) : (s.connect g b).records = s.records := rfl
@[simp] theorem State.connect_clients (g : ChannelId) (b : Branch) : (s.connect g b).clients = s.clients := rfl
@[simp] theorem State.connect_ports (g : ChannelId) (b : Branch) : (s.connect g b).ports = s.ports := rfl
@[simp] theorem State.connect_client (g : ChannelId) (b : Branch) (d : ClientId) : (s.connect g b).client d = s.client d := rfl
@[simp] theorem State.connect_slot (g : ChannelId) (b : Branch) (d : ClientId) (j : SlotId) : (s.connect g b).slot d j = s.slot d j := rfl
@[simp] theorem State.connect_port (g : ChannelId) (b : Branch) (q : Port) : (s.connect g b).port q = s.port q := rfl
@[simp] theorem State.connect_find (g : ChannelId) (b : Branch) (m : Name) : (s.connect g b).find m = s.find m := rfl
@[simp] theorem State.connect_gateOf (g : ChannelId) (b : Branch) (m : Name) : (s.connect g b).gateOf m = s.gateOf m := rfl
@[simp] theorem State.connect_termMs (g : ChannelId) (b : Branch) (m : Name) : (s.connect g b).termMs m = s.termMs m := rfl
@[simp] theorem State.connect_after (g : ChannelId) (b : Branch) (ms : Nat) : (s.connect g b).after ms = s.after ms := rfl

/-! ### `bind` -/

@[simp] theorem State.bind_pending (g : ChannelId) (n : Name) (dead : Half) : (s.bind g n dead).pending = s.pending := rfl
@[simp] theorem State.bind_clock (g : ChannelId) (n : Name) (dead : Half) : (s.bind g n dead).clock = s.clock := rfl
@[simp] theorem State.bind_inReset (g : ChannelId) (n : Name) (dead : Half) : (s.bind g n dead).inReset = s.inReset := rfl
@[simp] theorem State.bind_generation (g : ChannelId) (n : Name) (dead : Half) : (s.bind g n dead).generation = s.generation := rfl
@[simp] theorem State.bind_records (g : ChannelId) (n : Name) (dead : Half) : (s.bind g n dead).records = s.records := rfl
@[simp] theorem State.bind_clients (g : ChannelId) (n : Name) (dead : Half) : (s.bind g n dead).clients = s.clients := rfl
@[simp] theorem State.bind_ports (g : ChannelId) (n : Name) (dead : Half) : (s.bind g n dead).ports = s.ports := rfl
@[simp] theorem State.bind_client (g : ChannelId) (n : Name) (dead : Half) (d : ClientId) : (s.bind g n dead).client d = s.client d := rfl
@[simp] theorem State.bind_slot (g : ChannelId) (n : Name) (dead : Half) (d : ClientId) (j : SlotId) : (s.bind g n dead).slot d j = s.slot d j := rfl
@[simp] theorem State.bind_port (g : ChannelId) (n : Name) (dead : Half) (q : Port) : (s.bind g n dead).port q = s.port q := rfl
@[simp] theorem State.bind_find (g : ChannelId) (n : Name) (dead : Half) (m : Name) : (s.bind g n dead).find m = s.find m := rfl
@[simp] theorem State.bind_gateOf (g : ChannelId) (n : Name) (dead : Half) (m : Name) : (s.bind g n dead).gateOf m = s.gateOf m := rfl
@[simp] theorem State.bind_termMs (g : ChannelId) (n : Name) (dead : Half) (m : Name) : (s.bind g n dead).termMs m = s.termMs m := rfl
@[simp] theorem State.bind_after (g : ChannelId) (n : Name) (dead : Half) (ms : Nat) : (s.bind g n dead).after ms = s.after ms := rfl

/-! ### `updateRecord` -/

@[simp] theorem State.updateRecord_pending (n : Name) (f : Record → Record) : (s.updateRecord n f).pending = s.pending := rfl
@[simp] theorem State.updateRecord_clock (n : Name) (f : Record → Record) : (s.updateRecord n f).clock = s.clock := rfl
@[simp] theorem State.updateRecord_inReset (n : Name) (f : Record → Record) : (s.updateRecord n f).inReset = s.inReset := rfl
@[simp] theorem State.updateRecord_generation (n : Name) (f : Record → Record) : (s.updateRecord n f).generation = s.generation := rfl
@[simp] theorem State.updateRecord_clients (n : Name) (f : Record → Record) : (s.updateRecord n f).clients = s.clients := rfl
@[simp] theorem State.updateRecord_ports (n : Name) (f : Record → Record) : (s.updateRecord n f).ports = s.ports := rfl
@[simp] theorem State.updateRecord_channels (n : Name) (f : Record → Record) : (s.updateRecord n f).channels = s.channels := rfl
@[simp] theorem State.updateRecord_client (n : Name) (f : Record → Record) (d : ClientId) : (s.updateRecord n f).client d = s.client d := rfl
@[simp] theorem State.updateRecord_slot (n : Name) (f : Record → Record) (d : ClientId) (j : SlotId) : (s.updateRecord n f).slot d j = s.slot d j := rfl
@[simp] theorem State.updateRecord_port (n : Name) (f : Record → Record) (q : Port) : (s.updateRecord n f).port q = s.port q := rfl
@[simp] theorem State.updateRecord_channel (n : Name) (f : Record → Record) (h : ChannelId) : (s.updateRecord n f).channel h = s.channel h := rfl
@[simp] theorem State.updateRecord_after (n : Name) (f : Record → Record) (ms : Nat) : (s.updateRecord n f).after ms = s.after ms := rfl

/-! ### `leaveHolders` -/

@[simp] theorem State.leaveHolders_pending (n : Name) (c : ClientId) (i : SlotId) : (s.leaveHolders n c i).pending = s.pending := rfl
@[simp] theorem State.leaveHolders_clock (n : Name) (c : ClientId) (i : SlotId) : (s.leaveHolders n c i).clock = s.clock := rfl
@[simp] theorem State.leaveHolders_inReset (n : Name) (c : ClientId) (i : SlotId) : (s.leaveHolders n c i).inReset = s.inReset := rfl
@[simp] theorem State.leaveHolders_generation (n : Name) (c : ClientId) (i : SlotId) : (s.leaveHolders n c i).generation = s.generation := rfl
@[simp] theorem State.leaveHolders_clients (n : Name) (c : ClientId) (i : SlotId) : (s.leaveHolders n c i).clients = s.clients := rfl
@[simp] theorem State.leaveHolders_ports (n : Name) (c : ClientId) (i : SlotId) : (s.leaveHolders n c i).ports = s.ports := rfl
@[simp] theorem State.leaveHolders_channels (n : Name) (c : ClientId) (i : SlotId) : (s.leaveHolders n c i).channels = s.channels := rfl
@[simp] theorem State.leaveHolders_client (n : Name) (c : ClientId) (i : SlotId) (d : ClientId) : (s.leaveHolders n c i).client d = s.client d := rfl
@[simp] theorem State.leaveHolders_slot (n : Name) (c : ClientId) (i : SlotId) (d : ClientId) (j : SlotId) : (s.leaveHolders n c i).slot d j = s.slot d j := rfl
@[simp] theorem State.leaveHolders_port (n : Name) (c : ClientId) (i : SlotId) (q : Port) : (s.leaveHolders n c i).port q = s.port q := rfl
@[simp] theorem State.leaveHolders_channel (n : Name) (c : ClientId) (i : SlotId) (h : ChannelId) : (s.leaveHolders n c i).channel h = s.channel h := rfl
@[simp] theorem State.leaveHolders_after (n : Name) (c : ClientId) (i : SlotId) (ms : Nat) : (s.leaveHolders n c i).after ms = s.after ms := rfl

/-! ### `leaveQueue` -/

@[simp] theorem State.leaveQueue_pending (n : Name) (c : ClientId) (i : SlotId) : (s.leaveQueue n c i).pending = s.pending := rfl
@[simp] theorem State.leaveQueue_clock (n : Name) (c : ClientId) (i : SlotId) : (s.leaveQueue n c i).clock = s.clock := rfl
@[simp] theorem State.leaveQueue_inReset (n : Name) (c : ClientId) (i : SlotId) : (s.leaveQueue n c i).inReset = s.inReset := rfl
@[simp] theorem State.leaveQueue_generation (n : Name) (c : ClientId) (i : SlotId) : (s.leaveQueue n c i).generation = s.generation := rfl
@[simp] theorem State.leaveQueue_clients (n : Name) (c : ClientId) (i : SlotId) : (s.leaveQueue n c i).clients = s.clients := rfl
@[simp] theorem State.leaveQueue_ports (n : Name) (c : ClientId) (i : SlotId) : (s.leaveQueue n c i).ports = s.ports := rfl
@[simp] theorem State.leaveQueue_channels (n : Name) (c : ClientId) (i : SlotId) : (s.leaveQueue n c i).channels = s.channels := rfl
@[simp] theorem State.leaveQueue_client (n : Name) (c : ClientId) (i : SlotId) (d : ClientId) : (s.leaveQueue n c i).client d = s.client d := rfl
@[simp] theorem State.leaveQueue_slot (n : Name) (c : ClientId) (i : SlotId) (d : ClientId) (j : SlotId) : (s.leaveQueue n c i).slot d j = s.slot d j := rfl
@[simp] theorem State.leaveQueue_port (n : Name) (c : ClientId) (i : SlotId) (q : Port) : (s.leaveQueue n c i).port q = s.port q := rfl
@[simp] theorem State.leaveQueue_channel (n : Name) (c : ClientId) (i : SlotId) (h : ChannelId) : (s.leaveQueue n c i).channel h = s.channel h := rfl
@[simp] theorem State.leaveQueue_after (n : Name) (c : ClientId) (i : SlotId) (ms : Nat) : (s.leaveQueue n c i).after ms = s.after ms := rfl

/-! ### `addRecord` -/

@[simp] theorem State.addRecord_pending (r : Record) : (s.addRecord r).pending = s.pending := rfl
@[simp] theorem State.addRecord_clock (r : Record) : (s.addRecord r).clock = s.clock := rfl
@[simp] theorem State.addRecord_inReset (r : Record) : (s.addRecord r).inReset = s.inReset := rfl
@[simp] theorem State.addRecord_generation (r : Record) : (s.addRecord r).generation = s.generation := rfl
@[simp] theorem State.addRecord_clients (r : Record) : (s.addRecord r).clients = s.clients := rfl
@[simp] theorem State.addRecord_ports (r : Record) : (s.addRecord r).ports = s.ports := rfl
@[simp] theorem State.addRecord_channels (r : Record) : (s.addRecord r).channels = s.channels := rfl
@[simp] theorem State.addRecord_client (r : Record) (d : ClientId) : (s.addRecord r).client d = s.client d := rfl
@[simp] theorem State.addRecord_slot (r : Record) (d : ClientId) (j : SlotId) : (s.addRecord r).slot d j = s.slot d j := rfl
@[simp] theorem State.addRecord_port (r : Record) (q : Port) : (s.addRecord r).port q = s.port q := rfl
@[simp] theorem State.addRecord_channel (r : Record) (h : ChannelId) : (s.addRecord r).channel h = s.channel h := rfl
@[simp] theorem State.addRecord_after (r : Record) (ms : Nat) : (s.addRecord r).after ms = s.after ms := rfl

/-! ### Reading after writing -/

@[simp] theorem State.client_setClient (c d : ClientId) (x : Client) :
    (s.setClient c x).client d = if c = d then x else s.client d := by
  simp [State.client, State.setClient, Vector.getElem_set, Fin.ext_iff]

@[simp] theorem State.port_setPort (p q : Port) (x : PortUnit) :
    (s.setPort p x).port q = if p = q then x else s.port q := by
  simp [State.port, State.setPort, Vector.getElem_set, Fin.ext_iff]

@[simp] theorem State.channel_setChannel (g h : ChannelId) (x : Channel) :
    (s.setChannel g x).channel h = if g = h then x else s.channel h := by
  simp [State.channel, State.setChannel, Vector.getElem_set, Fin.ext_iff]

@[simp] theorem State.client_setQueue (c d : ClientId) (es : List Entry) :
    (s.setQueue c es).client d = if c = d then { s.client c with queue := es } else s.client d := by
  simp [State.setQueue]

theorem State.client_setSlot (c d : ClientId) (i : SlotId) (x : Slot) :
    (s.setSlot c i x).client d =
      if c = d then { s.client c with slots := (s.client c).slots.set i x } else s.client d := by
  simp [State.setSlot]

@[simp] theorem State.slot_setSlot (c d : ClientId) (i j : SlotId) (x : Slot) :
    (s.setSlot c i x).slot d j = if c = d ∧ i = j then x else s.slot d j := by
  unfold State.slot
  rw [State.client_setSlot]
  by_cases h : c = d
  · subst h
    simp [Vector.getElem_set, Fin.ext_iff]
  · simp [h]

@[simp] theorem State.slot_setQueue (c d : ClientId) (es : List Entry) (j : SlotId) :
    (s.setQueue c es).slot d j = s.slot d j := by
  unfold State.slot
  rw [State.client_setQueue]
  split
  · next h => subst h; rfl
  · rfl

@[simp] theorem State.slot_post (c d : ClientId) (i j : SlotId) (k : EntryClass) :
    (s.post c i k).slot d j = s.slot d j := by simp [State.post]

@[simp] theorem State.slot_unpost (c d : ClientId) (i j : SlotId) :
    (s.unpost c i).slot d j = s.slot d j := by simp [State.unpost]

@[simp] theorem State.port_setResponse (p q : Port) (x : ResponseSlot) :
    (s.setResponse p x).port q = if p = q then { s.port p with slot := x } else s.port q := by
  simp [State.setResponse]

@[simp] theorem State.queue_setSlot (c d : ClientId) (i : SlotId) (x : Slot) :
    ((s.setSlot c i x).client d).queue = (s.client d).queue := by
  rw [State.client_setSlot]
  split
  · next h => subst h; rfl
  · rfl

end Sys2Proof.Machine
end

