-- ==== Sys2Proof/Laws/Ops.lean ====
section
/-! SUPPORT. What the shared operations over the tables can do: they neither read nor change the port units, the lease clock,
the reset mark or the queue of commands. -/

namespace Sys2Proof.Machine

/-- The state with every port unit replaced. -/
def State.withPorts (s : State) (v : Vector PortUnit 8) : State := { s with ports := v }

/-- `setPort` replaces the port units. -/
theorem State.setPort_eq_withPorts (s : State) (p : Port) (x : PortUnit) :
    s.setPort p x = s.withPorts (s.ports.set p x) := rfl

/-- What an operation over the tables leaves as it was. -/
structure TablesOnly (s t : State) : Prop where
  pending : t.pending = s.pending
  clock : t.clock = s.clock
  inReset : t.inReset = s.inReset
  ports : t.ports = s.ports

theorem TablesOnly.rfl' (s : State) : TablesOnly s s := ⟨rfl, rfl, rfl, rfl⟩

theorem TablesOnly.trans {s t u : State} (h : TablesOnly s t) (k : TablesOnly t u) : TablesOnly s u :=
  ⟨k.pending.trans h.pending, k.clock.trans h.clock, k.inReset.trans h.inReset, k.ports.trans h.ports⟩

/-- An operation over the tables after updates that keep the four fields too. -/
theorem TablesOnly.over {s t u : State} (k : TablesOnly t u) (a : t.pending = s.pending) (b : t.clock = s.clock)
    (c : t.inReset = s.inReset) (d : t.ports = s.ports) : TablesOnly s u :=
  TablesOnly.trans ⟨a, b, c, d⟩ k

variable (s : State) (v : Vector PortUnit 8)

/-! ### The grant pass -/

theorem State.startLease_tablesOnly (own : Option ClientId) (n : Name) (w : Waiter) (g : Gen) :
    TablesOnly s (s.startLease own n w g) := by
  unfold State.startLease
  dsimp only
  split <;> exact ⟨rfl, rfl, rfl, rfl⟩

theorem State.startLease_withPorts (own : Option ClientId) (n : Name) (w : Waiter) (g : Gen) :
    (s.withPorts v).startLease own n w g = (s.startLease own n w g).withPorts v := by
  unfold State.startLease
  dsimp only
  split <;> rfl

theorem State.grant_tablesOnly (own : Option ClientId) (n : Name) (w : Waiter) (rest : List Waiter) :
    TablesOnly s (s.grant own n w rest) := by
  unfold State.grant
  dsimp only
  split
  · split
    · exact ⟨rfl, rfl, rfl, rfl⟩
    · have k := (State.startLease_tablesOnly (s.grantEntry n w rest) own n w s.drawn).over
        (s := s) rfl rfl rfl rfl
      exact ⟨k.1, k.2, k.3, k.4⟩
  · exact (State.startLease_tablesOnly (s.grantEntry n w rest) own n w s.drawn).over rfl rfl rfl rfl

theorem State.grant_withPorts (own : Option ClientId) (n : Name) (w : Waiter) (rest : List Waiter) :
    (s.withPorts v).grant own n w rest = (s.grant own n w rest).withPorts v := by
  have h : ((s.withPorts v).grantEntry n w rest).gateOf n = (s.grantEntry n w rest).gateOf n := rfl
  have k := State.startLease_withPorts (s.grantEntry n w rest) v own n w s.drawn
  unfold State.grant
  dsimp only
  rw [h]
  cases (s.grantEntry n w rest).gateOf n with
  | none => exact k
  | some g =>
    have c : ((s.withPorts v).grantEntry n w rest).channel g = (s.grantEntry n w rest).channel g := rfl
    dsimp only
    rw [c]
    cases ((s.grantEntry n w rest).channel g).isSettling with
    | true => rfl
    | false => exact congrArg (fun t => State.connect t g ((s.grantEntry n w rest).client w.client).branch) k

theorem grantLoop_tablesOnly (own : Option ClientId) (n : Name) (ws : List Waiter) :
    ∀ s : State, TablesOnly s (grantLoop own n ws s) := by
  induction ws with
  | nil => exact TablesOnly.rfl'
  | cons w rest ih =>
    intro s
    unfold grantLoop
    split
    · split
      · exact (s.grant_tablesOnly own n w rest).trans (ih _)
      · exact TablesOnly.rfl' s
    · exact TablesOnly.rfl' s

theorem grantLoop_withPorts (own : Option ClientId) (n : Name) (ws : List Waiter) :
    ∀ s : State, grantLoop own n ws (s.withPorts v) = (grantLoop own n ws s).withPorts v := by
  induction ws with
  | nil => exact fun _ => rfl
  | cons w rest ih =>
    intro s
    have h : (s.withPorts v).find n = s.find n := rfl
    unfold grantLoop
    rw [h]
    cases s.find n with
    | none => rfl
    | some r =>
      dsimp only
      split
      · rw [s.grant_withPorts, ih]
      · rfl

theorem State.grantPass_tablesOnly (own : Option ClientId) (n : Name) : TablesOnly s (s.grantPass own n) := by
  unfold State.grantPass
  split
  · exact grantLoop_tablesOnly own n _ s
  · exact TablesOnly.rfl' s

theorem State.grantPass_withPorts (own : Option ClientId) (n : Name) :
    (s.withPorts v).grantPass own n = (s.grantPass own n).withPorts v := by
  have h : (s.withPorts v).find n = s.find n := rfl
  unfold State.grantPass
  rw [h]
  cases s.find n with
  | none => rfl
  | some r => exact grantLoop_withPorts v own n _ s

/-! ### Recall evaluation -/

theorem State.applyRecall_tablesOnly (grace : Half) (h : Holder) (b : Bool) :
    TablesOnly s (s.applyRecall grace h b) := by
  unfold State.applyRecall
  split <;> exact ⟨rfl, rfl, rfl, rfl⟩

theorem State.applyRecall_withPorts (grace : Half) (h : Holder) (b : Bool) :
    (s.withPorts v).applyRecall grace h b = (s.applyRecall grace h b).withPorts v := by
  have k : (s.withPorts v).slot h.client h.slot = s.slot h.client h.slot := rfl
  unfold State.applyRecall
  rw [k]
  cases s.slot h.client h.slot <;> cases b <;> rfl

theorem foldl_applyRecall_tablesOnly (grace : Half) (l : List (Holder × Bool)) :
    ∀ s : State, TablesOnly s (l.foldl (fun t x => t.applyRecall grace x.1 x.2) s) := by
  induction l with
  | nil => exact TablesOnly.rfl'
  | cons x l ih => exact fun s => (s.applyRecall_tablesOnly grace x.1 x.2).trans (ih _)

theorem foldl_applyRecall_withPorts (grace : Half) (l : List (Holder × Bool)) :
    ∀ s : State, l.foldl (fun t x => t.applyRecall grace x.1 x.2) (s.withPorts v) =
      (l.foldl (fun t x => t.applyRecall grace x.1 x.2) s).withPorts v := by
  induction l with
  | nil => exact fun _ => rfl
  | cons x l ih => intro s; simp only [List.foldl_cons]; rw [s.applyRecall_withPorts, ih]

theorem State.evalRecall_tablesOnly (n : Name) : TablesOnly s (s.evalRecall n) := by
  unfold State.evalRecall
  split
  · exact foldl_applyRecall_tablesOnly _ _ s
  · exact TablesOnly.rfl' s

theorem State.evalRecall_withPorts (n : Name) :
    (s.withPorts v).evalRecall n = (s.evalRecall n).withPorts v := by
  have h : (s.withPorts v).find n = s.find n := rfl
  unfold State.evalRecall
  rw [h]
  cases s.find n with
  | none => rfl
  | some r => exact foldl_applyRecall_withPorts v _ _ s

/-! ### Removal, follow-up and the ends -/

theorem State.removeRecord_tablesOnly (n : Name) : TablesOnly s (s.removeRecord n) := by
  unfold State.removeRecord
  dsimp only
  split <;> exact ⟨rfl, rfl, rfl, rfl⟩

theorem State.removeRecord_withPorts (n : Name) :
    (s.withPorts v).removeRecord n = (s.removeRecord n).withPorts v := by
  have h : (s.withPorts v).gateOf n = s.gateOf n := rfl
  unfold State.removeRecord
  rw [h]
  cases s.gateOf n <;> rfl

theorem State.holderEnd_tablesOnly (n : Name) : TablesOnly s (s.holderEnd n) := by
  unfold State.holderEnd
  split <;> exact ⟨rfl, rfl, rfl, rfl⟩

theorem State.holderEnd_withPorts (n : Name) :
    (s.withPorts v).holderEnd n = (s.holderEnd n).withPorts v := by
  have h : (s.withPorts v).gateOf n = s.gateOf n := rfl
  unfold State.holderEnd
  rw [h]
  cases s.gateOf n <;> rfl

theorem State.followUp_tablesOnly (n : Name) : TablesOnly s (s.followUp n) := by
  unfold State.followUp
  split
  · split
    · exact s.removeRecord_tablesOnly n
    · exact (s.grantPass_tablesOnly none n).trans (State.evalRecall_tablesOnly _ n)
  · exact TablesOnly.rfl' s

theorem State.followUp_withPorts (n : Name) :
    (s.withPorts v).followUp n = (s.followUp n).withPorts v := by
  have h : (s.withPorts v).find n = s.find n := rfl
  unfold State.followUp
  rw [h]
  cases s.find n with
  | none => rfl
  | some r =>
    dsimp only
    split
    · exact s.removeRecord_withPorts v n
    · rw [s.grantPass_withPorts, State.evalRecall_withPorts]

theorem State.endWait_tablesOnly (c : ClientId) (i : SlotId) (cause : EndCause) :
    TablesOnly s (s.endWait c i cause) := by
  unfold State.endWait
  split <;> exact ⟨rfl, rfl, rfl, rfl⟩

theorem State.endWait_withPorts (c : ClientId) (i : SlotId) (cause : EndCause) :
    (s.withPorts v).endWait c i cause = (s.endWait c i cause).withPorts v := by
  have h : (s.withPorts v).slot c i = s.slot c i := rfl
  unfold State.endWait
  rw [h]
  cases s.slot c i <;> rfl

theorem State.endHolding_tablesOnly (c : ClientId) (i : SlotId) (cause : EndCause) :
    TablesOnly s (s.endHolding c i cause) := by
  unfold State.endHolding
  split
  · exact ⟨rfl, rfl, rfl, rfl⟩
  · exact (State.holderEnd_tablesOnly _ _).over rfl rfl rfl rfl
  · exact (State.holderEnd_tablesOnly _ _).over rfl rfl rfl rfl
  all_goals exact TablesOnly.rfl' s

theorem State.endHolding_withPorts (c : ClientId) (i : SlotId) (cause : EndCause) :
    (s.withPorts v).endHolding c i cause = (s.endHolding c i cause).withPorts v := by
  have h : (s.withPorts v).slot c i = s.slot c i := rfl
  unfold State.endHolding
  rw [h]
  cases s.slot c i with
  | held n m g l => 
    exact State.holderEnd_withPorts
      (((s.leaveHolders n c i).setSlot c i (.ended n m (some g) cause)).post c i .urgent) v n
  | recalled n m g l r => 
    exact State.holderEnd_withPorts
      (((s.leaveHolders n c i).setSlot c i (.ended n m (some g) cause)).post c i .urgent) v n
  | _ => rfl

theorem State.freeSlot_tablesOnly (c : ClientId) (i : SlotId) : TablesOnly s (s.freeSlot c i) := by
  unfold State.freeSlot
  split
  · exact TablesOnly.rfl' s
  · exact (State.followUp_tablesOnly _ _).over rfl rfl rfl rfl
  · exact (State.followUp_tablesOnly _ _).over rfl rfl rfl rfl
  · exact (TablesOnly.trans (State.holderEnd_tablesOnly _ _) (State.followUp_tablesOnly _ _)).over
      rfl rfl rfl rfl
  · exact (TablesOnly.trans (State.holderEnd_tablesOnly _ _) (State.followUp_tablesOnly _ _)).over
      rfl rfl rfl rfl
  · exact ⟨rfl, rfl, rfl, rfl⟩

theorem State.freeSlot_withPorts (c : ClientId) (i : SlotId) :
    (s.withPorts v).freeSlot c i = (s.freeSlot c i).withPorts v := by
  have h : (s.withPorts v).slot c i = s.slot c i := rfl
  unfold State.freeSlot
  rw [h]
  cases s.slot c i with
  | waiting n m w => exact State.followUp_withPorts ((s.leaveQueue n c i).setSlot c i .free) v n
  | gating n m g => exact State.followUp_withPorts ((s.leaveHolders n c i).setSlot c i .free) v n
  | held n m g l =>
    have k := State.holderEnd_withPorts ((s.leaveHolders n c i).setSlot c i .free) v n
    exact (congrArg (fun t => State.followUp t n) k).trans (State.followUp_withPorts _ v n)
  | recalled n m g l r =>
    have k := State.holderEnd_withPorts ((s.leaveHolders n c i).setSlot c i .free) v n
    exact (congrArg (fun t => State.followUp t n) k).trans (State.followUp_withPorts _ v n)
  | _ => rfl

theorem foldl_freeSlot_tablesOnly (c : ClientId) (l : List SlotId) :
    ∀ s : State, TablesOnly s (l.foldl (fun u i => u.freeSlot c i) s) := by
  induction l with
  | nil => exact TablesOnly.rfl'
  | cons i l ih => exact fun s => (s.freeSlot_tablesOnly c i).trans (ih _)

theorem foldl_freeSlot_withPorts (c : ClientId) (l : List SlotId) :
    ∀ s : State, l.foldl (fun u i => u.freeSlot c i) (s.withPorts v) =
      (l.foldl (fun u i => u.freeSlot c i) s).withPorts v := by
  induction l with
  | nil => exact fun _ => rfl
  | cons i l ih => intro s; simp only [List.foldl_cons]; rw [s.freeSlot_withPorts, ih]

theorem State.freeAll_tablesOnly (c : ClientId) : TablesOnly s (s.freeAll c) := by
  have h := foldl_freeSlot_tablesOnly c allSlots s
  unfold State.freeAll
  generalize allSlots.foldl (fun u i => State.freeSlot u c i) s = t at h
  exact ⟨h.1, h.2, h.3, h.4⟩

theorem State.freeAll_withPorts (c : ClientId) :
    (s.withPorts v).freeAll c = (s.freeAll c).withPorts v := by
  unfold State.freeAll
  rw [foldl_freeSlot_withPorts]
  generalize allSlots.foldl (fun u i => State.freeSlot u c i) s = t
  rfl

end Sys2Proof.Machine
end

