-- ==== Sys2Proof/Laws/Carry.lean ====
section
/-! SUPPORT. What carrying out a request can do: it leaves the port units, the lease clock, the reset mark and the queue of
commands alone, and depends on the port units only through the link state that an OPEN meets. So a request taken at a
frame's end is carried out as if the frame had not changed its port. -/

namespace Sys2Proof.Machine

/-- A result with every port unit of its tables replaced. -/
def Result.withPorts (x : Result) (v : Vector PortUnit 8) : Result := (x.1.withPorts v, x.2)

variable (s : State) (v : Vector PortUnit 8)

/-! ### Clients -/

theorem State.busySlots_withPorts (c : ClientId) : (s.withPorts v).busySlots c = s.busySlots c := by
  have h : (fun i => !((s.withPorts v).slot c i).isFree) = (fun i => !(s.slot c i).isFree) := rfl
  unfold State.busySlots
  rw [h]

theorem State.leasedSlots_withPorts (c : ClientId) : (s.withPorts v).leasedSlots c = s.leasedSlots c := by
  have h : (fun i => ((s.withPorts v).slot c i).leased) = (fun i => (s.slot c i).leased) := rfl
  unfold State.leasedSlots
  rw [h]

theorem carryOpen_withPorts (p : Port) (c : ClientId) (branch priority flags : Byte)
    (h : (s.withPorts v).openState p = s.openState p) :
    carryOpen p c branch priority flags (s.withPorts v) = (carryOpen p c branch priority flags s).withPorts v := by
  unfold carryOpen
  cases openAccepted p branch priority flags with
  | error st => rfl
  | ok x => dsimp only; rw [h]; rfl

theorem carryTakeover_withPorts (p : Port) (c : ClientId) (branch priority flags : Byte)
    (h : (s.withPorts v).openState p = s.openState p) :
    carryTakeover p c branch priority flags (s.withPorts v) =
      (carryTakeover p c branch priority flags s).withPorts v := by
  unfold carryTakeover
  cases openAccepted p branch priority flags with
  | error st => rfl
  | ok x =>
    dsimp only
    rw [h, s.freeAll_withPorts, s.busySlots_withPorts]
    generalize s.freeAll c = t
    rfl

theorem carryClose_withPorts (c : ClientId) :
    carryClose c (s.withPorts v) = (carryClose c s).withPorts v := by
  unfold carryClose
  dsimp only
  rw [s.freeAll_withPorts, s.busySlots_withPorts]
  generalize s.freeAll c = t
  rfl

/-! ### Acquisition -/

theorem State.answerAcquire_withPorts (c : ClientId) (i : SlotId) (n : Name) (m : Mode) (limit : Half) (k : Nat) :
    (s.withPorts v).answerAcquire c i n m limit k = (s.answerAcquire c i n m limit k).withPorts v := by
  have hs : (s.withPorts v).slot c i = s.slot c i := rfl
  have hc : (s.withPorts v).client c = s.client c := rfl
  have e (t : State) : (t.withPorts v).evalRecall n = (t.evalRecall n).withPorts v := t.evalRecall_withPorts v n
  have f := e ((s.leaveQueue n c i).setSlot c i .free)
  have w := e (s.setSlot c i (.waiting n m (some (s.after limit.toNat))))
  have rest : ∀ x : Slot, (∀ a b g l, x ≠ .held a b g l) → (∀ a b g, x ≠ .gating a b g) → s.slot c i = x →
      (s.withPorts v).answerAcquire c i n m limit k = (s.answerAcquire c i n m limit k).withPorts v := by
    intro x hh hg hx
    unfold State.answerAcquire
    rw [hs, hc, hx]
    cases x with
    | held a b g l => exact absurd rfl (hh a b g l)
    | gating a b g => exact absurd rfl (hg a b g)
    | _ =>
      dsimp only
      split
      · exact congrArg (fun t => ((t, Status.unavailable, Payload.nothing) : Result)) f
      · split
        · exact congrArg (fun t => ((t, Status.queued, Payload.queued i k) : Result)) (e s)
        · exact congrArg (fun t => ((t, Status.queued, Payload.queued i k) : Result)) w
  cases hx : s.slot c i with
  | held a b g l =>
    unfold State.answerAcquire
    rw [hs, hx]
    dsimp only
    rw [e]
    rfl
  | gating a b g =>
    unfold State.answerAcquire
    rw [hs, hx]
    dsimp only
    rw [e]
    rfl
  | _ => exact rest _ (by simp) (by simp) hx

theorem carryAcquire_withPorts (c : ClientId) (n : Name) (mode : Byte) (limit : Half) :
    carryAcquire c n mode limit (s.withPorts v) = (carryAcquire c n mode limit s).withPorts v := by
  have hf : (s.withPorts v).find n = s.find n := rfl
  unfold carryAcquire
  cases modeOf mode with
  | none => rfl
  | some m =>
    dsimp only
    split
    · rfl
    · rw [hf]
      cases s.find n with
      | none => rfl
      | some r =>
        have ha : (s.withPorts v).admission c r m = s.admission c r m := rfl
        dsimp only
        rw [ha]
        cases s.admission c r m with
        | error st => rfl
        | ok i =>
          have he : (s.withPorts v).enqueue c i n m = (s.enqueue c i n m).withPorts v := rfl
          dsimp only
          rw [he, State.grantPass_withPorts, State.answerAcquire_withPorts]
          rfl

theorem carryCancel_withPorts (c : ClientId) (slot : Byte) :
    carryCancel c slot (s.withPorts v) = (carryCancel c slot s).withPorts v := by
  unfold carryCancel
  cases slotOf slot with
  | none => rfl
  | some i =>
    have hs : (s.withPorts v).slot c i = s.slot c i := rfl
    dsimp only
    rw [hs]
    cases s.slot c i with
    | waiting n m w =>
      have k := State.followUp_withPorts ((s.leaveQueue n c i).setSlot c i .free) v n
      exact congrArg (fun t => ((t, Status.ok, Payload.nothing) : Result)) k
    | _ => rfl

/-! ### Leases -/

theorem State.renewSlot_withPorts (c : ClientId) (i : SlotId) :
    (s.withPorts v).renewSlot c i = (s.renewSlot c i).withPorts v := by
  have hs : (s.withPorts v).slot c i = s.slot c i := rfl
  unfold State.renewSlot
  rw [hs]
  cases s.slot c i <;> rfl

theorem carryRenew_withPorts (c : ClientId) (slot : Byte) :
    carryRenew c slot (s.withPorts v) = (carryRenew c slot s).withPorts v := by
  unfold carryRenew
  cases slotOf slot with
  | none => rfl
  | some i =>
    have hs : (s.withPorts v).slot c i = s.slot c i := rfl
    dsimp only
    rw [hs, State.renewSlot_withPorts]
    cases s.slot c i <;> rfl

theorem foldl_renewSlot_withPorts (c : ClientId) (l : List SlotId) :
    ∀ s : State, l.foldl (fun u i => u.renewSlot c i) (s.withPorts v) =
      (l.foldl (fun u i => u.renewSlot c i) s).withPorts v := by
  induction l with
  | nil => exact fun _ => rfl
  | cons i l ih => intro s; simp only [List.foldl_cons]; rw [s.renewSlot_withPorts, ih]

theorem carryRenewAll_withPorts (c : ClientId) :
    carryRenewAll c (s.withPorts v) = (carryRenewAll c s).withPorts v := by
  unfold carryRenewAll
  rw [foldl_renewSlot_withPorts, s.leasedSlots_withPorts]
  generalize allSlots.foldl (fun u i => State.renewSlot u c i) s = t
  rfl

theorem carryRelease_withPorts (c : ClientId) (slot : Byte) :
    carryRelease c slot (s.withPorts v) = (carryRelease c slot s).withPorts v := by
  unfold carryRelease
  cases slotOf slot with
  | none => rfl
  | some i =>
    have hs : (s.withPorts v).slot c i = s.slot c i := rfl
    have leased (n : Name) : ((((((s.withPorts v).leaveHolders n c i).holderEnd n).setSlot c i .free).unpost c i).followUp n) =
        ((((((s.leaveHolders n c i).holderEnd n).setSlot c i .free).unpost c i).followUp n)).withPorts v := by
      have h := State.holderEnd_withPorts (s.leaveHolders n c i) v n
      exact (congrArg (fun t => ((State.setSlot t c i .free).unpost c i).followUp n) h).trans
        (State.followUp_withPorts ((((s.leaveHolders n c i).holderEnd n).setSlot c i .free).unpost c i) v n)
    dsimp only
    rw [hs]
    cases s.slot c i with
    | held n m g l => exact congrArg (fun t => ((t, Status.ok, Payload.nothing) : Result)) (leased n)
    | recalled n m g l r => exact congrArg (fun t => ((t, Status.ok, Payload.nothing) : Result)) (leased n)
    | gating n m g =>
      have k := State.followUp_withPorts ((s.leaveHolders n c i).setSlot c i .free) v n
      exact congrArg (fun t => ((t, Status.ok, Payload.nothing) : Result)) k
    | _ => rfl

/-! ### Reports -/

theorem carryFetch_withPorts (c : ClientId) :
    carryFetch c (s.withPorts v) = (carryFetch c s).withPorts v := by
  have hc : (s.withPorts v).client c = s.client c := rfl
  unfold carryFetch
  rw [hc]
  cases (s.client c).queue with
  | nil => rfl
  | cons e rest =>
    have hs : (s.withPorts v).slot c e.slot = s.slot c e.slot := rfl
    dsimp only
    rw [hs]
    cases s.slot c e.slot <;> rfl

theorem carrySlotRead_withPorts (c : ClientId) (slot : Byte) :
    carrySlotRead c slot (s.withPorts v) = (carrySlotRead c slot s).withPorts v := by
  unfold carrySlotRead
  cases slotOf slot <;> rfl

theorem carryCheck_withPorts (n : Name) (g : Gen) :
    carryCheck n g (s.withPorts v) = (carryCheck n g s).withPorts v := by
  have hf : (s.withPorts v).find n = s.find n := rfl
  unfold carryCheck
  rw [hf]
  split
  · rfl
  · cases s.find n with
    | none => rfl
    | some r =>
      have hv : (s.withPorts v).validHolder r g = s.validHolder r g := rfl
      dsimp only
      rw [hv]
      cases s.validHolder r g <;> rfl

theorem carryQuery_withPorts (n : Name) :
    carryQuery n (s.withPorts v) = (carryQuery n s).withPorts v := by
  have hf : (s.withPorts v).find n = s.find n := rfl
  unfold carryQuery
  rw [hf]
  split
  · rfl
  · cases s.find n <;> rfl

theorem carryDirectory_withPorts (start : Name) :
    carryDirectory start (s.withPorts v) = (carryDirectory start s).withPorts v := rfl

/-! ### Administration -/

theorem carryDefine_withPorts (c : ClientId) (d : DefineParams) :
    carryDefine c d (s.withPorts v) = (carryDefine c d s).withPorts v := by
  have ha : (s.withPorts v).client c = s.client c := rfl
  have hf : (s.withPorts v).find d.name = s.find d.name := rfl
  have hr : (s.withPorts v).records = s.records := rfl
  unfold carryDefine
  rw [ha, hf, hr]
  split
  · rfl
  · cases defineAccepted d with
    | none => rfl
    | some x =>
      obtain ⟨rank, gate⟩ := x
      dsimp only
      split
      · rfl
      · split
        · rfl
        · cases gate with
          | none => rfl
          | some y =>
            obtain ⟨g, dead⟩ := y
            have hg : (s.withPorts v).channel g = s.channel g := rfl
            dsimp only
            rw [hg]
            split <;> rfl

theorem carryAmend_withPorts (c : ClientId) (a : AmendParams) :
    carryAmend c a (s.withPorts v) = (carryAmend c a s).withPorts v := by
  have ha : (s.withPorts v).client c = s.client c := rfl
  have hf : (s.withPorts v).find a.name = s.find a.name := rfl
  unfold carryAmend
  rw [ha, hf]
  split
  · rfl
  · cases amendAccepted a with
    | none => rfl
    | some rank =>
      dsimp only
      cases s.find a.name with
      | none => rfl
      | some r =>
        dsimp only
        cases amendRefused r a rank with
        | some st => rfl
        | none =>
          have k (f : Record → Record) : ((s.withPorts v).updateRecord a.name f) =
            (s.updateRecord a.name f).withPorts v := rfl
          dsimp only
          rw [k, State.grantPass_withPorts, State.evalRecall_withPorts]
          rfl

theorem State.retireWaiters_withPorts (ws : List Waiter) :
    ∀ s : State, (s.withPorts v).retireWaiters ws = (s.retireWaiters ws).withPorts v := by
  unfold State.retireWaiters
  induction ws with
  | nil => exact fun _ => rfl
  | cons w ws ih => intro s; simp only [List.foldl_cons]; rw [s.endWait_withPorts, ih]

theorem State.retireHolders_withPorts (hs : List Holder) :
    ∀ s : State, (s.withPorts v).retireHolders hs = (s.retireHolders hs).withPorts v := by
  unfold State.retireHolders
  induction hs with
  | nil => exact fun _ => rfl
  | cons h hs ih => intro s; simp only [List.foldl_cons]; rw [s.endHolding_withPorts, ih]

theorem State.retireGracefully_withPorts (r : Record) :
    (s.withPorts v).retireGracefully r = (s.retireGracefully r).withPorts v := by
  unfold State.retireGracefully
  split
  · rfl
  · split
    · rw [s.removeRecord_withPorts]; rfl
    · rw [State.retireWaiters_withPorts]
      have k (t : State) (f : Record → Record) : ((t.withPorts v).updateRecord r.name f) =
        (t.updateRecord r.name f).withPorts v := rfl
      rw [k, State.evalRecall_withPorts]
      rfl

theorem State.retireAtOnce_withPorts (r : Record) :
    (s.withPorts v).retireAtOnce r = (s.retireAtOnce r).withPorts v := by
  unfold State.retireAtOnce
  rw [State.retireHolders_withPorts, State.retireWaiters_withPorts, State.removeRecord_withPorts]
  rfl

theorem carryRetire_withPorts (c : ClientId) (n : Name) (mode : Byte) :
    carryRetire c n mode (s.withPorts v) = (carryRetire c n mode s).withPorts v := by
  have ha : (s.withPorts v).client c = s.client c := rfl
  have hf : (s.withPorts v).find n = s.find n := rfl
  unfold carryRetire
  rw [ha, hf]
  split
  · rfl
  · split
    · rfl
    · cases s.find n with
      | none => rfl
      | some r =>
        dsimp only
        split
        · exact s.retireGracefully_withPorts v r
        · exact s.retireAtOnce_withPorts v r

theorem carrySeed_withPorts (c : ClientId) (value : Gen) :
    carrySeed c value (s.withPorts v) = (carrySeed c value s).withPorts v := by
  have ha : (s.withPorts v).client c = s.client c := rfl
  have hg : (s.withPorts v).generation = s.generation := rfl
  unfold carrySeed
  rw [ha, hg]
  split
  · rfl
  · split
    · rfl
    · split <;> rfl

/-! ### A whole request -/

theorem carryNew_withPorts (p : Port) (c : ClientId) (body : Body)
    (h : (s.withPorts v).openState p = s.openState p) :
    carryNew p c body (s.withPorts v) = (carryNew p c body s).withPorts v := by
  cases body with
  | openClient branch priority flags => exact carryTakeover_withPorts s v p c branch priority flags h
  | close => exact carryClose_withPorts s v c
  | acquire name mode limit => exact carryAcquire_withPorts s v c name mode limit
  | release slot => exact carryRelease_withPorts s v c slot
  | cancel slot => exact carryCancel_withPorts s v c slot
  | renew slot => exact carryRenew_withPorts s v c slot
  | renewAll => exact carryRenewAll_withPorts s v c
  | fetch => exact carryFetch_withPorts s v c
  | slotRead slot => exact carrySlotRead_withPorts s v c slot
  | check name generation => exact carryCheck_withPorts s v name generation
  | query name => exact carryQuery_withPorts s v name
  | directory start => exact carryDirectory_withPorts s v start
  | define d => exact carryDefine_withPorts s v c d
  | amend a => exact carryAmend_withPorts s v c a
  | retire name mode => exact carryRetire_withPorts s v c name mode
  | seed value => exact carrySeed_withPorts s v c value

theorem carryPlainOpen_withPorts (p : Port) (c : ClientId) (body : Body)
    (h : (s.withPorts v).openState p = s.openState p) :
    carryPlainOpen p c body (s.withPorts v) = (carryPlainOpen p c body s).withPorts v := by
  cases body with
  | openClient branch priority flags => exact carryOpen_withPorts s v p c branch priority flags h
  | _ => rfl

/-- A screened request is carried out without regard to the port units, but for the link state of its own port. -/
theorem carryScreened_withPorts (k : Passage) (p : Port) (r : Request) (h : (s.withPorts v).openState p = s.openState p) :
    carryScreened k p r (s.withPorts v) = ((carryScreened k p r s).1.withPorts v, (carryScreened k p r s).2) := by
  unfold carryScreened
  cases k with
  | plainOpen =>
    dsimp only
    rw [carryPlainOpen_withPorts s v p _ _ h]
    obtain ⟨t, st, pl⟩ := carryPlainOpen p r.header.client r.body s
    cases st <;> rfl
  | fresh =>
    dsimp only
    rw [carryNew_withPorts s v p _ _ h]
    rfl

/-- So is a request screened and carried out. -/
theorem carryOut_withPorts (p : Port) (r : Request) (h : (s.withPorts v).openState p = s.openState p) :
    carryOut p r (s.withPorts v) = ((carryOut p r s).1.withPorts v, (carryOut p r s).2) := by
  have hx : (s.withPorts v).client r.header.client = s.client r.header.client := rfl
  unfold carryOut
  rw [hx]
  cases screen (s.client r.header.client) p r with
  | answered a => rfl
  | passed k => exact carryScreened_withPorts s v k p r h

/-! ### What carrying out leaves alone -/

theorem State.answerAcquire_tablesOnly (c : ClientId) (i : SlotId) (n : Name) (m : Mode) (limit : Half) (k : Nat) :
    TablesOnly s (s.answerAcquire c i n m limit k).1 := by
  unfold State.answerAcquire
  split
  · exact s.evalRecall_tablesOnly n
  · exact s.evalRecall_tablesOnly n
  · split
    · exact (State.evalRecall_tablesOnly _ n).over rfl rfl rfl rfl
    · split
      · exact s.evalRecall_tablesOnly n
      · exact (State.evalRecall_tablesOnly _ n).over rfl rfl rfl rfl

theorem carryAcquire_tablesOnly (c : ClientId) (n : Name) (mode : Byte) (limit : Half) :
    TablesOnly s (carryAcquire c n mode limit s).1 := by
  unfold carryAcquire
  split
  · exact TablesOnly.rfl' s
  · split
    · exact TablesOnly.rfl' s
    · split
      · exact TablesOnly.rfl' s
      · split
        · exact TablesOnly.rfl' s
        · exact ((State.grantPass_tablesOnly _ _ _).trans (State.answerAcquire_tablesOnly _ _ _ _ _ _ _)).over
            rfl rfl rfl rfl

theorem State.renewSlot_tablesOnly (c : ClientId) (i : SlotId) : TablesOnly s (s.renewSlot c i) := by
  unfold State.renewSlot
  split <;> exact ⟨rfl, rfl, rfl, rfl⟩

theorem foldl_renewSlot_tablesOnly (c : ClientId) (l : List SlotId) :
    ∀ s : State, TablesOnly s (l.foldl (fun u i => u.renewSlot c i) s) := by
  induction l with
  | nil => exact TablesOnly.rfl'
  | cons i l ih => exact fun s => (s.renewSlot_tablesOnly c i).trans (ih _)

theorem carryRelease_tablesOnly (c : ClientId) (slot : Byte) : TablesOnly s (carryRelease c slot s).1 := by
  unfold carryRelease
  split
  · exact TablesOnly.rfl' s
  · next i _ =>
    have leased (n : Name) : TablesOnly s
        ((((((s.leaveHolders n c i).holderEnd n).setSlot c i .free).unpost c i).followUp n)) := by
      have h := (State.holderEnd_tablesOnly (s.leaveHolders n c i) n).over (s := s) rfl rfl rfl rfl
      exact (State.followUp_tablesOnly _ n).over h.1 h.2 h.3 h.4
    split
    · exact leased _
    · exact leased _
    · exact (State.followUp_tablesOnly _ _).over rfl rfl rfl rfl
    all_goals exact ⟨rfl, rfl, rfl, rfl⟩

theorem carryAmend_tablesOnly (c : ClientId) (a : AmendParams) : TablesOnly s (carryAmend c a s).1 := by
  unfold carryAmend
  split
  · exact TablesOnly.rfl' s
  · split
    · exact TablesOnly.rfl' s
    · split
      · exact TablesOnly.rfl' s
      · split
        · exact TablesOnly.rfl' s
        · exact ((State.grantPass_tablesOnly _ _ _).trans (State.evalRecall_tablesOnly _ _)).over rfl rfl rfl rfl

theorem State.retireWaiters_tablesOnly (ws : List Waiter) : ∀ s : State, TablesOnly s (s.retireWaiters ws) := by
  unfold State.retireWaiters
  induction ws with
  | nil => exact TablesOnly.rfl'
  | cons w ws ih => exact fun s => (s.endWait_tablesOnly _ _ _).trans (ih _)

theorem State.retireHolders_tablesOnly (hs : List Holder) : ∀ s : State, TablesOnly s (s.retireHolders hs) := by
  unfold State.retireHolders
  induction hs with
  | nil => exact TablesOnly.rfl'
  | cons h hs ih => exact fun s => (s.endHolding_tablesOnly _ _ _).trans (ih _)

theorem carryRetire_tablesOnly (c : ClientId) (n : Name) (mode : Byte) :
    TablesOnly s (carryRetire c n mode s).1 := by
  unfold carryRetire
  split
  · exact TablesOnly.rfl' s
  · split
    · exact TablesOnly.rfl' s
    · split
      · exact TablesOnly.rfl' s
      · next r _ =>
        split
        · unfold State.retireGracefully
          split
          · exact TablesOnly.rfl' s
          · split
            · exact s.removeRecord_tablesOnly _
            · have h := s.retireWaiters_tablesOnly r.waiters
              exact (State.evalRecall_tablesOnly _ _).over h.1 h.2 h.3 h.4
        · exact (s.retireHolders_tablesOnly _).trans
            ((State.retireWaiters_tablesOnly _ _).trans (State.removeRecord_tablesOnly _ _))

theorem carryNew_tablesOnly (p : Port) (c : ClientId) (body : Body) : TablesOnly s (carryNew p c body s).1 := by
  have freed (x : State → Client) : TablesOnly s ((s.freeAll c).setClient c (x (s.freeAll c))) := by
    have h := s.freeAll_tablesOnly c
    generalize s.freeAll c = t at h
    exact ⟨h.1, h.2, h.3, h.4⟩
  cases body with
  | openClient branch priority flags =>
    show TablesOnly s (carryTakeover p c branch priority flags s).1
    unfold carryTakeover
    split
    · exact TablesOnly.rfl' s
    · next b pr adm _ =>
      exact freed (fun t => { t.client c with state := s.openState p, branch := b, priority := pr, admin := adm })
  | close =>
    show TablesOnly s (carryClose c s).1
    unfold carryClose
    exact freed (fun t => { t.client c with state := .closed, branch := 0, priority := 0, admin := false })
  | acquire name mode limit => exact carryAcquire_tablesOnly s c name mode limit
  | release slot => exact carryRelease_tablesOnly s c slot
  | cancel slot =>
    show TablesOnly s (carryCancel c slot s).1
    unfold carryCancel
    split
    · exact TablesOnly.rfl' s
    · split
      · exact (State.followUp_tablesOnly _ _).over rfl rfl rfl rfl
      all_goals exact ⟨rfl, rfl, rfl, rfl⟩
  | renew slot =>
    show TablesOnly s (carryRenew c slot s).1
    unfold carryRenew
    split
    · exact TablesOnly.rfl' s
    · split <;> first | exact s.renewSlot_tablesOnly _ _ | exact TablesOnly.rfl' s
  | renewAll =>
    have h := foldl_renewSlot_tablesOnly c allSlots s
    show TablesOnly s (carryRenewAll c s).1
    unfold carryRenewAll
    generalize allSlots.foldl (fun u i => State.renewSlot u c i) s = t at h
    exact h
  | fetch =>
    show TablesOnly s (carryFetch c s).1
    unfold carryFetch
    split
    · exact TablesOnly.rfl' s
    · dsimp only
      split <;> exact ⟨rfl, rfl, rfl, rfl⟩
  | slotRead slot =>
    show TablesOnly s (carrySlotRead c slot s).1
    unfold carrySlotRead
    split <;> exact TablesOnly.rfl' s
  | check name generation =>
    show TablesOnly s (carryCheck name generation s).1
    unfold carryCheck
    split
    · exact TablesOnly.rfl' s
    · split
      · exact TablesOnly.rfl' s
      · split <;> exact TablesOnly.rfl' s
  | query name =>
    show TablesOnly s (carryQuery name s).1
    unfold carryQuery
    split
    · exact TablesOnly.rfl' s
    · split <;> exact TablesOnly.rfl' s
  | directory start => exact TablesOnly.rfl' s
  | define d =>
    show TablesOnly s (carryDefine c d s).1
    unfold carryDefine
    split
    · exact TablesOnly.rfl' s
    · split
      · exact TablesOnly.rfl' s
      · split
        · exact TablesOnly.rfl' s
        · split
          · exact TablesOnly.rfl' s
          · split
            · exact ⟨rfl, rfl, rfl, rfl⟩
            · split <;> exact ⟨rfl, rfl, rfl, rfl⟩
  | amend a => exact carryAmend_tablesOnly s c a
  | retire name mode => exact carryRetire_tablesOnly s c name mode
  | seed value =>
    show TablesOnly s (carrySeed c value s).1
    unfold carrySeed
    split
    · exact TablesOnly.rfl' s
    · split
      · exact TablesOnly.rfl' s
      · split <;> exact ⟨rfl, rfl, rfl, rfl⟩

theorem carryPlainOpen_tablesOnly (p : Port) (c : ClientId) (body : Body) :
    TablesOnly s (carryPlainOpen p c body s).1 := by
  unfold carryPlainOpen
  split
  · unfold carryOpen
    split <;> exact ⟨rfl, rfl, rfl, rfl⟩
  · exact TablesOnly.rfl' s

/-- Carrying out a screened request leaves the port units, the clock, the reset mark and the queue of commands alone. -/
theorem carryScreened_tablesOnly (k : Passage) (p : Port) (r : Request) : TablesOnly s (carryScreened k p r s).1 := by
  unfold carryScreened
  split
  · have h := carryPlainOpen_tablesOnly s p r.header.client r.body
    dsimp only
    split
    · exact ⟨h.1, h.2, h.3, h.4⟩
    · exact h
  · have h := carryNew_tablesOnly s p r.header.client r.body
    exact ⟨h.1, h.2, h.3, h.4⟩

/-- So does screening and carrying out a request. -/
theorem carryOut_tablesOnly (p : Port) (r : Request) : TablesOnly s (carryOut p r s).1 := by
  unfold carryOut
  split
  · exact TablesOnly.rfl' s
  · exact carryScreened_tablesOnly s _ p r

/-- The state in which a port leaves a client it opens hangs on no port unit's fields but the link states. -/
theorem State.openState_setPort (p q : Port) (x : PortUnit) (h : x.link = (s.port q).link) :
    (s.setPort q x).openState p = s.openState p := by
  unfold State.openState
  rw [State.port_setPort]
  by_cases k : q = p
  · rw [if_pos k, h, k]
  · rw [if_neg k]

/-- A screened request is carried out as if a port had not been touched whose link state is the same. -/
theorem carryScreened_setPort (k : Passage) (p q : Port) (x : PortUnit) (r : Request) (h : x.link = (s.port q).link) :
    carryScreened k p r (s.setPort q x) = ((carryScreened k p r s).1.setPort q x, (carryScreened k p r s).2) := by
  have e := carryScreened_withPorts s (s.ports.set q x) k p r (s.openState_setPort p q x h)
  have t := (carryScreened_tablesOnly s k p r).ports
  rw [State.setPort_eq_withPorts, e]
  unfold State.setPort State.withPorts
  rw [t]

/-- So is a request screened and carried out. -/
theorem carryOut_setPort (p q : Port) (x : PortUnit) (r : Request) (h : x.link = (s.port q).link) :
    carryOut p r (s.setPort q x) = ((carryOut p r s).1.setPort q x, (carryOut p r s).2) := by
  have e := carryOut_withPorts s (s.ports.set q x) p r (s.openState_setPort p q x h)
  have t := (carryOut_tablesOnly s p r).ports
  rw [State.setPort_eq_withPorts, e]
  unfold State.setPort State.withPorts
  rw [t]

end Sys2Proof.Machine
end

