-- ==== Sys2Proof/Laws/Reception.lean ====
section
/-! SUPPORT. What the receiving side of a frame assembles from its bits (R138). -/

namespace Sys2Proof.Machine

/-- The eight bits of a byte assemble to it. -/
@[simp] theorem byteOfBits_byteBits (b : Byte) : byteOfBits (byteBits b) = b := by
  revert b
  decide +kernel

/-- A bit more clocked in a frame. -/
@[simp] theorem receive_append_singleton (bits : List Bool) (b : Bool) : receive (bits ++ [b]) = (receive bits).clock b := by
  simp [receive]

/-- Eight bits at the start of a byte complete it. -/
theorem Reception.clock_byteBits (r : Reception) (b : Byte) (h : r.bits = []) :
    (byteBits b).foldl Reception.clock r =
      { bytes := if r.bytes.length < keptBytes then r.bytes ++ [b] else r.bytes, count := r.count + 1, bits := [] } := by
  obtain ⟨bytes, count, bits⟩ := r
  subst h
  have e := byteOfBits_byteBits b
  simp [byteBits] at e
  simp [byteBits, Reception.clock, e]

/-- The bits of whole bytes, in any frame that stands between two bytes. -/
theorem foldl_clock_bitsOf (bs : List Byte) :
    ∀ r : Reception, r.bits = [] → r.bytes.length ≤ keptBytes →
      (bitsOf bs).foldl Reception.clock r =
        { bytes := r.bytes ++ bs.take (keptBytes - r.bytes.length), count := r.count + bs.length, bits := [] } := by
  induction bs with
  | nil => rintro ⟨bytes, count, bits⟩ rfl _; simp [bitsOf]
  | cons b bs ih =>
    intro r h hk
    have e : bitsOf (b :: bs) = byteBits b ++ bitsOf bs := rfl
    rw [e, List.foldl_append, r.clock_byteBits b h]
    by_cases hl : r.bytes.length < keptBytes
    · rw [if_pos hl, ih _ rfl (by simp; omega)]
      obtain ⟨k, hk⟩ : ∃ k, keptBytes - r.bytes.length = k + 1 := ⟨keptBytes - r.bytes.length - 1, by omega⟩
      have hk2 : keptBytes - (r.bytes.length + 1) = k := by omega
      simp [hk, hk2]
      omega
    · rw [if_neg hl, ih { r with count := r.count + 1, bits := [] } rfl hk]
      have : keptBytes - r.bytes.length = 0 := by omega
      simp [this]
      omega

/-- A frame of whole bytes: each is counted, the first 64 are kept. -/
theorem receive_bitsOf (bs : List Byte) :
    receive (bitsOf bs) = { bytes := bs.take keptBytes, count := bs.length, bits := [] } := by
  have h := foldl_clock_bitsOf bs noReception rfl (Nat.zero_le _)
  simpa [receive, noReception] using h

/-- The count of a frame of whole bytes. -/
@[simp] theorem receive_bitsOf_count (bs : List Byte) : (receive (bitsOf bs)).count = bs.length := by
  rw [receive_bitsOf]

end Sys2Proof.Machine
end

