-- ==== Sys2Proof/Laws/Ports.lean ====
section
/-! SUPPORT. What a port unit does at the end of a good frame, once for every kind, what stands before a screening, and
what carrying out a request there comes to. -/

namespace Sys2Proof.Machine

variable (s : State) (p : Port)

/-- Two writes of one port unit are the last. -/
@[simp] theorem State.setPort_setPort (x y : PortUnit) : (s.setPort p x).setPort p y = s.setPort p y := by
  simp [State.setPort]

/-- Writing a port unit back as it stands changes nothing. -/
@[simp] theorem State.setPort_port : s.setPort p (s.port p) = s := by
  simp [State.setPort, State.port]

/-- Two writes of one client context are the last. -/
@[simp] theorem State.setClient_setClient (c : ClientId) (x y : Client) :
    (s.setClient c x).setClient c y = s.setClient c y := by
  simp [State.setClient]

/-- Writing a client context back as it stands changes nothing. -/
@[simp] theorem State.setClient_client (c : ClientId) : s.setClient c (s.client c) = s := by
  simp [State.setClient, State.client]

/-- The length of a frame. -/
@[simp] theorem length_frameBytes (c q k : Byte) (payload : List Byte) :
    (frameBytes c q k payload).length = payload.length + 5 := by
  simp [frameBytes, coveredBytes]

/-- The length of a frame with a header. -/
@[simp] theorem length_headedBytes (h : Header) (k : Byte) (payload : List Byte) :
    (headedBytes h k payload).length = payload.length + 5 := by
  simp [headedBytes]

/-- The length of a request's frame. -/
@[simp] theorem length_requestBytes (r : Request) : (requestBytes r).length = requestLength r := by
  simp [requestBytes, requestLength]

/-- Bits clocked in a frame in progress. -/
theorem State.clockIn_frame (bits : List Bool) (f : Frame) (hf : (s.port p).frame = some f) :
    s.clockIn p bits = s.setPort p { s.port p with frame := some { f with received := receive bits } } := by
  unfold State.clockIn
  rw [hf]

/-- Bits clocked with no frame in progress. -/
theorem State.clockIn_none (bits : List Bool) (hf : (s.port p).frame = none) : s.clockIn p bits = s := by
  unfold State.clockIn
  rw [hf]

/-- The response slot lets a request in. -/
theorem State.goodFrame_admitted (bytes : List Byte) (taken : State → State) (f : Frame) (hf : (s.port p).frame = some f)
    (hl : (s.port p).link = .up) (ha : (s.port p).admits f.outgoing bytes.length = true) :
    s.goodFrame p bytes taken =
      taken (s.setPort p { s.port p with frame := none, score := (s.port p).score - 1 }) := by
  unfold State.goodFrame State.endGood
  rw [s.clockIn_frame p _ f hf]
  simp only [State.port_setPort, if_pos, State.setPort_setPort, receive_bitsOf_count]
  generalize s.port p = u at *
  obtain ⟨l, sc, sl, bf, ov, fr, rep⟩ := u
  subst hf hl
  exact if_pos ha

/-- The response slot does not let a request in: an overrun. -/
theorem State.goodFrame_overrun (bytes : List Byte) (taken : State → State) (f : Frame) (hf : (s.port p).frame = some f)
    (hl : (s.port p).link = .up) (ha : (s.port p).admits f.outgoing bytes.length = false) :
    s.goodFrame p bytes taken =
      s.setPort p { s.port p with
        frame := none, score := (s.port p).score - 1, overruns := bump (s.port p).overruns } := by
  unfold State.goodFrame State.endGood
  rw [s.clockIn_frame p _ f hf]
  simp only [State.port_setPort, if_pos, State.setPort_setPort, receive_bitsOf_count]
  generalize s.port p = u at *
  obtain ⟨l, sc, sl, bf, ov, fr, rep⟩ := u
  subst hf hl
  exact if_neg (fun h => Bool.noConfusion (ha.symm.trans h))

/-- In FAULTED a good frame is dropped without count. -/
theorem State.goodFrame_faulted (bytes : List Byte) (taken : State → State) (f : Frame) (hf : (s.port p).frame = some f)
    (hl : (s.port p).link = .faulted) :
    s.goodFrame p bytes taken = s.setPort p { s.port p with frame := none } := by
  unfold State.goodFrame State.endGood
  rw [s.clockIn_frame p _ f hf]
  simp only [State.port_setPort, if_pos, State.setPort_setPort, hl]

/-- A frame whose start the port has not recognised is ignored. -/
theorem State.goodFrame_ignored (bytes : List Byte) (taken : State → State) (hf : (s.port p).frame = none) :
    s.goodFrame p bytes taken = s := by
  unfold State.goodFrame State.endGood
  rw [s.clockIn_none p _ hf]
  simp only [hf]

/-- Everything the end of a good frame can do. -/
theorem State.goodFrame_cases (bytes : List Byte) (taken : State → State) :
    ((s.port p).frame = none ∧ s.goodFrame p bytes taken = s) ∨
    ((s.port p).link = .faulted ∧ (s.port p).frame ≠ none ∧
      s.goodFrame p bytes taken = s.setPort p { s.port p with frame := none }) ∨
    (∃ f, (s.port p).frame = some f ∧ (s.port p).link = .up ∧ (s.port p).admits f.outgoing bytes.length = false ∧
      s.goodFrame p bytes taken = s.setPort p { s.port p with
        frame := none, score := (s.port p).score - 1, overruns := bump (s.port p).overruns }) ∨
    ∃ f, (s.port p).frame = some f ∧ (s.port p).link = .up ∧ (s.port p).admits f.outgoing bytes.length = true ∧
      s.goodFrame p bytes taken =
        taken (s.setPort p { s.port p with frame := none, score := (s.port p).score - 1 }) := by
  cases hf : (s.port p).frame with
  | none => exact .inl ⟨rfl, s.goodFrame_ignored p bytes taken hf⟩
  | some f =>
    cases hl : (s.port p).link with
    | faulted => exact .inr (.inl ⟨rfl, by simp, s.goodFrame_faulted p bytes taken f hf hl⟩)
    | up =>
      cases ha : (s.port p).admits f.outgoing bytes.length with
      | false => exact .inr (.inr (.inl ⟨f, rfl, rfl, ha, s.goodFrame_overrun p bytes taken f hf hl ha⟩))
      | true => exact .inr (.inr (.inr ⟨f, rfl, rfl, ha, s.goodFrame_admitted p bytes taken f hf hl ha⟩))

/-! ### Requests screened earlier -/

/-- Does the port unit hold a request that is screened and not yet carried out? -/
def PortUnit.holdsScreened (u : PortUnit) : Prop := ∃ r k, u.slot = .working (.screened r k)

/-- Everything that carrying out a port's screened OPEN or CLOSE can do. -/
theorem State.carryEarlierOn_cases (c : ClientId) (q : Port) :
    s.carryEarlierOn c q = s ∨
    ∃ r k, (s.port q).slot = .working (.screened r k) ∧ r.header.client = c ∧ k.rebinds r = true ∧
      screen (s.client c) q r = .passed k ∧
      s.carryEarlierOn c q =
        (carryScreened k q r s).1.setResponse q (.working (.done (carryScreened k q r s).2)) := by
  unfold State.carryEarlierOn
  split
  · rename_i r k e
    split
    · rename_i g
      exact .inr ⟨r, k, e, g.1, g.2.1, g.2.2, rfl⟩
    · exact .inl rfl
  all_goals exact .inl rfl

/-- A screened request of a client that is carried out leaves the port unit WORKING, and all else of it as it was; every other
port unit, the clock, the reset mark and the queue of commands stay. -/
structure EarlierOnly (s t : State) : Prop where
  pending : t.pending = s.pending
  clock : t.clock = s.clock
  inReset : t.inReset = s.inReset
  port : ∀ q, t.port q = s.port q ∨
    ∃ r k a, (s.port q).slot = .working (.screened r k) ∧ t.port q = { s.port q with slot := .working (.done a) }

theorem EarlierOnly.trans {s t u : State} (h : EarlierOnly s t) (k : EarlierOnly t u) : EarlierOnly s u := by
  refine ⟨k.pending.trans h.pending, k.clock.trans h.clock, k.inReset.trans h.inReset, fun q => ?_⟩
  obtain e | ⟨r, j, a, e, f⟩ := k.port q
  · rw [e]
    exact h.port q
  · obtain e' | ⟨r', j', a', e', f'⟩ := h.port q
    · rw [e'] at e f
      exact .inr ⟨r, j, a, e, f⟩
    · rw [f'] at e
      cases e

theorem State.carryEarlierOn_only (c : ClientId) (q : Port) : EarlierOnly s (s.carryEarlierOn c q) := by
  obtain e | ⟨r, k, hs, -, -, -, e⟩ := s.carryEarlierOn_cases c q
  · rw [e]
    exact ⟨rfl, rfl, rfl, fun _ => .inl rfl⟩
  · rw [e]
    have t := carryScreened_tablesOnly s k q r
    have hp : ∀ d, (carryScreened k q r s).1.port d = s.port d := fun d => by unfold State.port; rw [t.ports]
    refine ⟨t.pending, t.clock, t.inReset, fun d => ?_⟩
    unfold State.setResponse
    rw [State.port_setPort]
    by_cases h : q = d
    · subst h
      rw [if_pos rfl, hp]
      exact .inr ⟨r, k, _, hs, rfl⟩
    · rw [if_neg h, hp]
      exact .inl rfl

/-- What stands before a screening changes, of the port units, only WORKING ones that held a screened request. -/
theorem State.carryEarlier_only (c : ClientId) : EarlierOnly s (s.carryEarlier c) := by
  have go : ∀ (l : List Port) (u : State), EarlierOnly u (l.foldl (fun t q => t.carryEarlierOn c q) u) := by
    intro l
    induction l with
    | nil => exact fun u => ⟨rfl, rfl, rfl, fun _ => .inl rfl⟩
    | cons q l ih => exact fun u => (u.carryEarlierOn_only c q).trans (ih _)
  exact go _ s

/-- A port without a screened request is left alone. -/
theorem State.carryEarlier_port (c : ClientId) (h : ¬ (s.port p).holdsScreened) : (s.carryEarlier c).port p = s.port p := by
  obtain e | ⟨r, k, a, e, -⟩ := (s.carryEarlier_only c).port p
  · exact e
  · exact absurd ⟨r, k, e⟩ h

/-- Where no port holds a screened OPEN or CLOSE of the client that its screening still passes, nothing is carried out. -/
theorem State.carryEarlier_self (c : ClientId)
    (h : ∀ q r k, (s.port q).slot = .working (.screened r k) → r.header.client = c →
      screen (s.client c) q r ≠ .passed k) : s.carryEarlier c = s := by
  have one : ∀ q, s.carryEarlierOn c q = s := by
    intro q
    obtain e | ⟨r, k, e, hc, -, hs, -⟩ := s.carryEarlierOn_cases c q
    · exact e
    · exact absurd hs (h q r k e hc)
  have go : ∀ l : List Port, l.foldl (fun t q => t.carryEarlierOn c q) s = s := by
    intro l
    induction l with
    | nil => rfl
    | cons q l ih =>
      rw [List.foldl_cons, one q]
      exact ih
  exact go _

/-- A client open on a port has no request screened earlier on another. -/
theorem State.carryEarlier_open (c : ClientId) (ho : (s.client c).state ≠ .closed) (hp : (s.client c).port = some p)
    (hn : ¬ (s.port p).holdsScreened) : s.carryEarlier c = s := by
  refine s.carryEarlier_self c fun q r k e _ hs => ?_
  by_cases hq : q = p
  · subst hq
    exact hn ⟨r, k, e⟩
  · unfold screen at hs
    rw [if_neg ho, if_pos (by rw [hp]; exact fun x => hq (Option.some.inj x).symm)] at hs
    split at hs <;> cases hs

/-- What stands before a screening does not hang on a port unit without a screened request, but for its link state. -/
theorem State.carryEarlier_setPort (c : ClientId) (x : PortUnit) (hl : x.link = (s.port p).link)
    (hx : ¬ x.holdsScreened) (hn : ¬ (s.port p).holdsScreened) :
    (s.setPort p x).carryEarlier c = (s.carryEarlier c).setPort p x := by
  have one : ∀ (u : State) (q : Port), u.port p = s.port p →
      (u.setPort p x).carryEarlierOn c q = (u.carryEarlierOn c q).setPort p x := by
    intro u q hu
    by_cases hq : p = q
    · subst hq
      obtain e | ⟨r, k, e, -⟩ := (u.setPort p x).carryEarlierOn_cases c p
      · obtain e' | ⟨r, k, e', -⟩ := u.carryEarlierOn_cases c p
        · rw [e, e']
        · exact absurd ⟨r, k, hu ▸ e'⟩ hn
      · rw [State.port_setPort, if_pos rfl] at e
        exact absurd ⟨r, k, e⟩ hx
    · have hs : (u.setPort p x).port q = u.port q := by rw [State.port_setPort, if_neg hq]
      unfold State.carryEarlierOn
      rw [hs]
      split
      · rename_i r k e
        rw [State.setPort_client]
        split
        · rw [carryScreened_setPort u k q p x r (by rw [hl, hu])]
          dsimp only
          unfold State.setResponse
          rw [State.port_setPort, if_neg hq]
          unfold State.setPort
          simp only [State.mk.injEq, true_and, and_true]
          exact Vector.set_comm _ _ (fun h => hq (Fin.ext h))
        · rfl
      all_goals rfl
  have go : ∀ (l : List Port) (u : State), u.port p = s.port p →
      l.foldl (fun t q => t.carryEarlierOn c q) (u.setPort p x) =
        (l.foldl (fun t q => t.carryEarlierOn c q) u).setPort p x := by
    intro l
    induction l with
    | nil => exact fun _ _ => rfl
    | cons q l ih =>
      intro u hu
      rw [List.foldl_cons, List.foldl_cons, one u q hu]
      refine ih _ ?_
      obtain e | ⟨r, k, a, e, -⟩ := (u.carryEarlierOn_only c q).port p
      · rw [e, hu]
      · exact absurd ⟨r, k, hu ▸ e⟩ hn
  exact go _ s rfl

/-- A request carried out at its frame's end, on a port unit whose link state has not changed: its effect on the tables, and
its answer waiting to be placed. -/
theorem State.take_atFrameEnd (x : PortUnit) (r : Request) (hl : x.link = (s.port p).link)
    (hn : ¬ (s.port p).holdsScreened) :
    (s.setPort p x).take p r .atFrameEnd =
      (s.carryHanded p r).1.setPort p { x with slot := .working (.done (s.carryHanded p r).2) } := by
  show ((s.setPort p x).setResponse p (.working (.handed r))).process p r = _
  have h : (s.setPort p x).setResponse p (.working (.handed r)) =
      s.setPort p { x with slot := .working (.handed r) } := by
    simp [State.setResponse]
  have hy : ¬ ({ x with slot := .working (.handed r) } : PortUnit).holdsScreened := by
    rintro ⟨a, b, e⟩
    cases e
  have e := carryOut_setPort (s.carryEarlier r.header.client) p p { x with slot := .working (.handed r) } r
    (by rw [s.carryEarlier_port p _ hn]; exact hl)
  rw [h]
  unfold State.process State.carryHanded
  rw [s.carryEarlier_setPort p _ { x with slot := .working (.handed r) } hl hy hn, e]
  simp [State.setResponse]

/-- A request left for later: only handed over. -/
theorem State.take_later (x : PortUnit) (r : Request) :
    (s.setPort p x).take p r .later = s.setPort p { x with slot := .working (.handed r) } := by
  show (s.setPort p x).setResponse p (.working (.handed r)) = _
  simp [State.setResponse]

/-- The screening classes the successor of the cached sequence number as new, for a client open on the arriving port, unless
the request is an OPEN without takeover (R127, R132). -/
theorem screen_successor (x : Client) (r : Request) (k : Cache) (ho : x.state ≠ .closed) (hp : x.port = some p)
    (hk : x.cache = some k) (hs : r.header.seq = k.seq + 1#8)
    (ht : bodyKind r.body = .openClient → bodyTakeover r.body = true) : screen x p r = .passed .fresh := by
  have hne : r.header.seq ≠ k.seq := by
    rw [hs]
    intro e
    have := congrArg BitVec.toNat e
    have hb := k.seq.isLt
    simp only [BitVec.toNat_add, BitVec.toNat_ofNat] at this
    omega
  have hm : k.matches r = false := by
    unfold Cache.matches
    have : (k.seq == r.header.seq) = false := by simpa using fun e => hne e.symm
    rw [this]; rfl
  have hq : screenSequence x.cache r = .passed .fresh := by
    rw [hk]
    unfold screenSequence
    simp only [hm, hs]
    simp [hs ▸ hne]
  unfold screen
  rw [if_neg ho, if_neg (by simp [hp])]
  split
  · rename_i e
    unfold screenReopen
    simp only [hk, Option.any_some, hm]
    rw [if_neg (by simp), if_pos (ht e), ← hk, hq]
  · exact hq

/-- A request is classed new only for a client that is open on its port (R126). -/
theorem screen_fresh_bound (x : Client) (r : Request) (hs : screen x p r = .passed .fresh) :
    x.state ≠ .closed ∧ x.port = some p := by
  unfold screen at hs
  split at hs
  · split at hs
    · cases hs
    · unfold screenClosedClose at hs
      split at hs
      · split at hs <;> cases hs
      · cases hs
    · cases hs
  · rename_i ho
    split at hs
    · split at hs <;> cases hs
    · rename_i hp
      exact ⟨ho, not_not.mp hp⟩

/-- A screened request classed new is carried out: the effect on the tables, the cache write, and the answer. -/
theorem carryScreened_fresh (r : Request) (t : State) (st : Status) (pl : Payload)
    (hc : carryNew p r.header.client r.body s = (t, st, pl)) :
    carryScreened .fresh p r s = (t.writeCache r (answerTo r st pl), answerTo r st pl) := by
  unfold carryScreened
  dsimp only
  rw [hc]

/-- So is a request handed over that its client's screening classes new: nothing stands before it, since its client is open on
its own port. -/
theorem State.carryHanded_fresh (r : Request) (hn : ¬ (s.port p).holdsScreened)
    (hs : screen (s.client r.header.client) p r = .passed .fresh) (t : State) (st : Status) (pl : Payload)
    (hc : carryNew p r.header.client r.body s = (t, st, pl)) :
    s.carryHanded p r = (t.writeCache r (answerTo r st pl), answerTo r st pl) := by
  have b := screen_fresh_bound p _ r hs
  unfold State.carryHanded carryOut
  rw [s.carryEarlier_open p _ b.1 b.2 hn, hs]
  exact carryScreened_fresh s p r t st pl hc

/-- A request that its port takes and its client's screening classes new, carried out at its frame's end: the effect on the
tables, the cache write, and the answer complete on the port. -/
theorem State.requestFrame_fresh (r : Request) (f : Frame) (hf : (s.port p).frame = some f)
    (hl : (s.port p).link = .up) (ha : (s.port p).admits f.outgoing (requestLength r) = true)
    (hs : screen (s.client r.header.client) p r = .passed .fresh) (t : State) (st : Status) (pl : Payload)
    (hc : carryNew p r.header.client r.body s = (t, st, pl)) :
    s.requestFrame p r .atFrameEnd =
      (t.writeCache r (answerTo r st pl)).setPort p { s.port p with
        frame := none, score := (s.port p).score - 1, slot := .working (.done (answerTo r st pl)) } := by
  have hn : ¬ (s.port p).holdsScreened := by
    rintro ⟨r', k, e⟩
    unfold PortUnit.admits at ha
    rw [e] at ha
    cases ha
  refine (s.goodFrame_admitted p _ _ f hf hl (by rw [length_requestBytes]; exact ha)).trans ?_
  refine (s.take_atFrameEnd p { s.port p with frame := none, score := (s.port p).score - 1 } r rfl hn).trans ?_
  rw [s.carryHanded_fresh p r hn hs t st pl hc]

/-- A request handed over before, which its client's screening classes new, carried out when its answer is placed (R36, R145): the
effect on the tables, the cache write, and the answer READY, whatever the link state. -/
theorem execAnswerPlaced_fresh (r : Request) (hw : (s.port p).slot = .working (.handed r))
    (hs : screen (s.client r.header.client) p r = .passed .fresh) (t : State) (st : Status) (pl : Payload)
    (hc : carryNew p r.header.client r.body s = (t, st, pl)) :
    execAnswerPlaced p s =
      .next ((t.writeCache r (answerTo r st pl)).setResponse p (.ready (answerTo r st pl))) := by
  have hn : ¬ (s.port p).holdsScreened := by
    rintro ⟨r', k, e⟩
    rw [hw] at e
    cases e
  unfold execAnswerPlaced
  simp only [hw, s.carryHanded_fresh p r hn hs t st pl hc]

/-- The same for a request that was screened before its port's fault was taken. -/
theorem execAnswerPlaced_screened (r : Request) (hw : (s.port p).slot = .working (.screened r .fresh))
    (t : State) (st : Status) (pl : Payload) (hc : carryNew p r.header.client r.body s = (t, st, pl)) :
    execAnswerPlaced p s =
      .next ((t.writeCache r (answerTo r st pl)).setResponse p (.ready (answerTo r st pl))) := by
  unfold execAnswerPlaced
  simp only [hw, carryScreened_fresh s p r t st pl hc]

/-- Where nothing is handed over on a port, no screening stands before its fault. -/
theorem State.screenHanded_self (h : ∀ r, (s.port p).slot ≠ .working (.handed r)) : s.screenHanded p = s := by
  unfold State.screenHanded
  split
  · rename_i r e
    exact absurd e (h r)
  all_goals rfl

/-- The end of a bad frame in progress, whose bits leave no trace of their own. -/
theorem State.endBad_clockIn (bits : List Bool) (f : Frame) (hf : (s.port p).frame = some f) :
    (s.clockIn p bits).endBad p = s.setPort p (s.port p).bad := by
  rw [s.clockIn_frame p bits f hf]
  unfold State.endBad
  simp only [State.port_setPort, if_pos, State.setPort_setPort]
  rfl

end Sys2Proof.Machine
end

