-- ==== Sys2Proof/Laws/PerInstr.lean ====
section
/-! SUPPORT. Families of statements about every command, one lemma for each constructor of `Instr`. -/

namespace Sys2Proof.Laws.FrameLength

open Sys2Proof.Machine

/-- The frame of a well-formed command has the length of its length byte, 5 to 64 (Table 11-1). -/
def Statement (i : Instr) : Prop :=
  i.wf = true → ∀ bytes, encodeFrame i = some bytes → 5 ≤ bytes.length ∧ bytes.length ≤ 64

/-- A client-level request's payload has at most twelve bytes (Table 11-3). -/
theorem length_bodyPayload (b : Body) : (bodyPayload b).length ≤ 12 := by
  cases b <;> simp [bodyPayload, bytes16, bytes32]

/-- A command that carries a client-level request. -/
theorem ofRequest (i : Instr) (r : Request) (h : encodeFrame i = some (requestBytes r)) : Statement i := by
  intro _ bytes e
  rw [h] at e
  cases e
  rw [requestBytes, length_headedBytes]
  have := length_bodyPayload r.body
  omega

/-- A command that is no frame. -/
theorem ofEvent (i : Instr) (h : encodeFrame i = none) : Statement i := by
  intro _ bytes e
  rw [h] at e
  cases e

theorem frameStart : ∀ p, Statement (.frameStart p) := fun _ => ofEvent _ rfl
theorem badFrame : ∀ f, Statement (.badFrame f) := fun _ => ofEvent _ rfl
theorem openClient : ∀ p h branch priority admin reserved t, Statement (.openClient p h branch priority admin reserved t) := fun _ _ _ _ _ _ _ => ofRequest _ _ rfl
theorem takeover : ∀ p h branch priority admin reserved t, Statement (.takeover p h branch priority admin reserved t) := fun _ _ _ _ _ _ _ => ofRequest _ _ rfl
theorem close : ∀ p h t, Statement (.close p h t) := fun _ _ _ => ofRequest _ _ rfl
theorem acquire : ∀ p h name mode limit t, Statement (.acquire p h name mode limit t) := fun _ _ _ _ _ _ => ofRequest _ _ rfl
theorem release : ∀ p h slot t, Statement (.release p h slot t) := fun _ _ _ _ => ofRequest _ _ rfl
theorem cancel : ∀ p h slot t, Statement (.cancel p h slot t) := fun _ _ _ _ => ofRequest _ _ rfl
theorem renew : ∀ p h slot t, Statement (.renew p h slot t) := fun _ _ _ _ => ofRequest _ _ rfl
theorem renewAll : ∀ p h t, Statement (.renewAll p h t) := fun _ _ _ => ofRequest _ _ rfl
theorem fetch : ∀ p h t, Statement (.fetch p h t) := fun _ _ _ => ofRequest _ _ rfl
theorem slotRead : ∀ p h slot t, Statement (.slotRead p h slot t) := fun _ _ _ _ => ofRequest _ _ rfl
theorem check : ∀ p h name generation t, Statement (.check p h name generation t) := fun _ _ _ _ _ => ofRequest _ _ rfl
theorem query : ∀ p h name t, Statement (.query p h name t) := fun _ _ _ _ => ofRequest _ _ rfl
theorem directory : ∀ p h start t, Statement (.directory p h start t) := fun _ _ _ _ => ofRequest _ _ rfl
theorem define : ∀ p h d t, Statement (.define p h d t) := fun _ _ _ _ => ofRequest _ _ rfl
theorem amend : ∀ p h a t, Statement (.amend p h a t) := fun _ _ _ _ => ofRequest _ _ rfl
theorem retireGraceful : ∀ p h name mode t, Statement (.retireGraceful p h name mode t) := fun _ _ _ _ _ => ofRequest _ _ rfl
theorem retireImmediate : ∀ p h name t, Statement (.retireImmediate p h name t) := fun _ _ _ _ => ofRequest _ _ rfl
theorem seed : ∀ p h value t, Statement (.seed p h value t) := fun _ _ _ _ => ofRequest _ _ rfl
theorem answerPlaced : ∀ p, Statement (.answerPlaced p) := fun _ => ofEvent _ rfl
theorem portFault : ∀ p, Statement (.portFault p) := fun _ => ofEvent _ rfl
theorem waitDeadline : ∀ c j, Statement (.waitDeadline c j) := fun _ _ => ofEvent _ rfl
theorem expiry : ∀ c j, Statement (.expiry c j) := fun _ _ => ofEvent _ rfl
theorem revocation : ∀ c j, Statement (.revocation c j) := fun _ _ => ofEvent _ rfl
theorem settleEnd : ∀ g us, Statement (.settleEnd g us) := fun _ _ => ofEvent _ rfl
theorem chipReset : Statement .chipReset := ofEvent _ rfl
theorem leaseClockTick : Statement .leaseClockTick := ofEvent _ rfl
theorem unclockedFrame : ∀ p, Statement (.unclockedFrame p) := fun _ => ofEvent _ rfl
theorem endOfReset : Statement .endOfReset := ofEvent _ rfl

theorem unknownKind : ∀ p h kind payload, Statement (.unknownKind p h kind payload) := by
  intro p h kind payload w bytes e
  simp only [Instr.wf, Bool.and_eq_true, decide_eq_true_eq] at w
  cases e
  rw [length_headedBytes]
  omega

theorem poll : ∀ p f, Statement (.poll p f) := by
  intro p f w bytes e
  simp only [Instr.wf, decide_eq_true_eq] at w
  cases e
  rw [length_headedBytes]
  omega

theorem probe : ∀ p h, Statement (.probe p h) := by
  intro p h w bytes e
  cases e
  rw [length_headedBytes]
  decide

theorem linkReset : ∀ p h, Statement (.linkReset p h) := by
  intro p h w bytes e
  cases e
  rw [length_headedBytes]
  decide

end Sys2Proof.Laws.FrameLength
end

