-- ==== Sys2Proof/Tests/Slice0.lean ====
section
/-! SUPPORT. Tests: the well-formedness check's refusals, one-step tests from the spec's worked sequences and tables, and for every
statement with hypotheses a state that meets them. -/

namespace Sys2Proof.Tests

open Sys2Proof Sys2Proof.Machine Sys2Proof.Claims Sys2Proof.Safety

/-! ### A world of states

One lawful state, `world`, in which clients, slots, records, channels and ports of every kind stand side by side. -/

/-- The state a command leads to. -/
def after (i : Instr) (s : State) : State :=
  match exec i s with
  | .next t => t
  | .fault _ => s
  | .refused _ => s

/-- A cache whose sequence number is 9. -/
def cacheNine : Cache :=
  { seq := 9#8, kind := .fetch, check := 0x55#8
    answer := { status := .empty, seqEcho := 9#8, kindEcho := 0x28#8, replay := false, payload := .nothing } }

/-- A client with some slots and a change queue. -/
def someClient (state : ClientState) (p : Port) (branch : Branch) (priority : Priority) (admin : Bool)
    (slots : List (SlotId × Slot)) (queue : List Entry) : Client :=
  { state := state, port := some p, branch := branch, priority := priority, admin := admin, cache := some cacheNine
    slots := slots.foldl (fun v x => v.set x.1 x.2) (Vector.replicate 8 .free)
    queue := queue }

/-- A record without gate. -/
def plainRecord (n : Name) (rank : Fin 16) (limit : Nat) (grace : Half) (hs : List Holder) (ws : List Waiter) : Record :=
  { name := n, state := .active, rank := rank, shareLimit := limit, leaseTerm := 50#16, recallGrace := grace
    gate := none, holders := hs, waiters := ws }

/-- A short answer, 7 bytes long. -/
def shortAnswer : Answer :=
  { status := .ok, seqEcho := 4#8, kindEcho := 0x24#8, replay := false, payload := .count 2 }

/-- An OPEN of client 12 with branch 7 and priority 7. -/
def openTwelve : Request := openingRequest false ⟨12, 0#4, 3#8⟩ 7#8 7#8 false 0#6

/-- A frame in progress in which nothing has been received yet. -/
def begun (out : Outgoing) : Frame := { outgoing := out, received := noReception }

/-- Every port has a frame in progress. Port 3 is FAULTED; port 4 too, its report not yet taken; port 5 sends a READY answer;
port 6 has an answer to place; port 7 is FAULTED with a request screened and not yet carried out. -/
def worldPorts : Vector PortUnit 8 :=
  let idle : PortUnit := { resetPort with frame := some (begun .idleFill) }
  let faulted : PortUnit := { idle with link := .faulted, score := 32, frame := some (begun .faultedFill) }
  #v[idle, { idle with score := 23 }, { idle with score := 24 }, faulted, { faulted with faultReport := true },
     { idle with slot := .ready shortAnswer, frame := some (begun (.answer shortAnswer)), overruns := 65535#16 },
     { idle with slot := .working (.done shortAnswer), frame := some (begun .workingFill), badFrames := 65535#16 },
     { faulted with slot := .working (.screened openTwelve .plainOpen) }]

/-- Client 3 has a slot in each of the six states. -/
def clientThree : Client :=
  someClient .opened 1 2 5 false
    [(0, .held 10#16 .exclusive 1#32 ⟨400#40, true⟩),
     (1, .recalled 20#16 .exclusive 2#32 ⟨600#40, false⟩ ⟨450#40, true⟩),
     (2, .gating 30#16 .exclusive 3#32), (3, .waiting 40#16 .exclusive none),
     (4, .ended 10#16 .shared (some 99#32) .expired)]
    [⟨4, .urgent⟩, ⟨1, .urgent⟩, ⟨0, .ordinary⟩]

/-- The clients. -/
def worldClients : Vector Client 16 :=
  (((((((Vector.replicate 16 resetClient).set 0
    (someClient .opened 0 0 0 true [(0, .waiting 20#16 .exclusive (some ⟨300#40, true⟩))] [])).set 3 clientThree).set 5
    (someClient .opened 2 7 2 false
      [(0, .held 40#16 .shared 4#32 ⟨700#40, false⟩), (1, .held 50#16 .exclusive 5#32 ⟨700#40, false⟩),
       (2, .held 60#16 .exclusive 6#32 ⟨700#40, false⟩), (3, .held 5#16 .shared 7#32 ⟨700#40, false⟩)] [])).set 9
    (someClient .suspect 3 1 4 false [] [])).set 10
    (someClient .opened 4 3 6 false [(0, .waiting 10#16 .exclusive none)] [])).set 14
    (someClient .opened 2 0 7 false [(0, .held 5#16 .shared 8#32 ⟨700#40, false⟩)] [])).set 13
    { resetClient with port := some 0, cache := some { cacheNine with kind := .close } }

/-- The directory. Resource 30 is gated by channel 0, resource 60 by channel 1, resource 50 is DRAINING. -/
def worldRecords : List Record :=
  [plainRecord 5#16 0 2 5#16 [⟨5, 3, .shared, 7#32⟩, ⟨14, 0, .shared, 8#32⟩] [],
   plainRecord 10#16 1 1 0#16 [⟨3, 0, .exclusive, 1#32⟩] [⟨10, 0, .exclusive, 6⟩],
   plainRecord 20#16 2 1 5#16 [⟨3, 1, .exclusive, 2#32⟩] [⟨0, 0, .exclusive, 0⟩],
   { plainRecord 30#16 3 1 5#16 [⟨3, 2, .exclusive, 3#32⟩] [] with gate := some 0 },
   plainRecord 40#16 4 2 5#16 [⟨5, 0, .shared, 4#32⟩] [⟨3, 3, .exclusive, 5⟩],
   { plainRecord 50#16 5 1 5#16 [⟨5, 1, .exclusive, 5#32⟩] [] with state := .draining },
   { plainRecord 60#16 6 1 5#16 [⟨5, 2, .exclusive, 6#32⟩] [] with gate := some 1 },
   plainRecord 70#16 15 8 5#16 [] []]

/-- The lawful state. Channel 2 is unbound and SETTLING. -/
def world : State :=
  { pending := [], clock := 500#40, inReset := false, generation := 8#32, records := worldRecords
    clients := worldClients, ports := worldPorts
    channels := (((Vector.replicate 16 resetChannel).set 0
      { binding := some 30#16, deadTime := some 1000#16, state := .settling 10 }).set 1
      { binding := some 60#16, deadTime := some 1#16, state := .connected 7 }).set 2
      { binding := none, deadTime := some 250#16, state := .settling 20 } }

/-- The same, with some commands waiting. -/
def worldWith (l : List Instr) : State := { world with pending := l }

/-- The header of a request of a client, with the sequence number that its cache makes new. -/
def head (c : ClientId) : Header := ⟨c, 0#4, 10#8⟩

set_option Elab.async false

theorem world_fields : ∀ r ∈ world.records, FieldsLawful r := by
  unfold FieldsLawful; decide +kernel

theorem world_directory : DirectoryLawful world := by
  unfold DirectoryLawful FieldsLawful HoldersLawful QueueOrdered; decide +kernel

theorem world_settled : RecordsSettled world := by
  unfold RecordsSettled HeadIncompatible; decide +kernel

theorem world_listed : SlotsListed world := by unfold SlotsListed; decide +kernel

theorem world_backed : ListsBacked world := by unfold ListsBacked; decide +kernel

theorem world_marked : ClosedAndMarked world := by unfold ClosedAndMarked; decide +kernel

theorem world_queues : ChangeQueuesLawful world := by unfold ChangeQueuesLawful; decide +kernel

theorem world_listsAgree : ListsAgree world :=
  ⟨world_directory, world_listed, world_backed, world_marked, world_queues, world_settled⟩

theorem world_ports : PortsLawful world := by unfold PortsLawful ReceptionLawful; decide +kernel

theorem world_clients : ClientsLawful world := by unfold ClientsLawful; decide +kernel

theorem world_waits : WaitsLawful world := by unfold WaitsLawful; decide +kernel

theorem world_generations : GenerationsDistinct world := by unfold GenerationsDistinct; decide +kernel

theorem world_counter : CounterLawful world := by unfold CounterLawful; decide +kernel

theorem world_ranks : RanksLawful world := by unfold RanksLawful; decide +kernel

theorem world_gates : GatesLawful world := by unfold GatesLawful; decide +kernel

theorem world_recalls : RecallsLawful world := by unfold RecallsLawful; decide +kernel

theorem world_screened : ScreenedLawful world := by unfold ScreenedLawful; decide +kernel

theorem world_lawful : Lawful world :=
  ⟨world_listsAgree, world_ports, world_clients, world_waits, world_generations, world_counter, world_ranks, world_gates,
    world_recalls, world_screened⟩

/-! ### Deciding the words of the statements -/

/-- `Taken`, as a Boolean. -/
def takenB (s : State) (p : Port) (len : Nat) : Bool :=
  (s.port p).link == .up &&
    match (s.port p).slot, (s.port p).frame with
    | .empty, some _ => true
    | .ready a, some f => f.outgoing == .answer a && decide (answerLength a ≤ len)
    | _, _ => false

theorem taken_of {s : State} {p : Port} {len : Nat} (h : takenB s p len = true) : Taken s p len := by
  unfold takenB at h
  simp only [Bool.and_eq_true, beq_iff_eq] at h
  refine ⟨h.1, ?_⟩
  have h2 := h.2
  split at h2
  · rename_i hs hf
    exact .inl ⟨hs, by rw [hf]; exact Option.some_ne_none _⟩
  · rename_i a f hs hf
    simp only [Bool.and_eq_true, beq_iff_eq, decide_eq_true_eq] at h2
    exact .inr ⟨a, f, hs, hf, h2.1, h2.2⟩
  · cases h2

/-- `Fresh`, as a Boolean. -/
def freshB (s : State) (p : Port) (r : Request) : Bool :=
  (s.client r.header.client).state != .closed && (s.client r.header.client).port == some p &&
    match (s.client r.header.client).cache with
    | some k => r.header.seq == k.seq + 1#8
    | none => false

theorem fresh_of {s : State} {p : Port} {r : Request} (h : freshB s p r = true) : Fresh s p r := by
  unfold freshB at h
  simp only [Bool.and_eq_true, beq_iff_eq, bne_iff_ne, ne_eq] at h
  obtain ⟨⟨ho, hp⟩, hc⟩ := h
  refine ⟨ho, hp, ?_⟩
  split at hc
  · rename_i k hk
    exact ⟨k, hk, by simpa using hc⟩
  · cases hc

theorem new_of {s : State} {p : Port} {r : Request} (h : (takenB s p (requestLength r) && freshB s p r) = true) :
    New s p r := by
  rw [Bool.and_eq_true] at h
  exact ⟨taken_of h.1, fresh_of h.2⟩

/-- Checks with their outcomes decided. -/
def Decided : List (Prop × Status) → List (Bool × Status) → Prop
  | [], [] => True
  | a :: as, b :: bs => (a.1 ↔ b.1 = true) ∧ a.2 = b.2 ∧ Decided as bs
  | _, _ => False

/-- The first check that fails. -/
def firstB : List (Bool × Status) → Option Status
  | [] => none
  | (true, st) :: _ => some st
  | (false, _) :: rest => firstB rest

theorem firstFailing_of {as : List (Prop × Status)} {bs : List (Bool × Status)} {st : Status} (h : Decided as bs)
    (e : firstB bs = some st) : FirstFailing as st := by
  induction as generalizing bs with
  | nil => cases bs with
    | nil => cases e
    | cons b bs => exact h.elim
  | cons a as ih =>
    match bs, h with
    | (true, x) :: bs, ⟨h1, h2, _⟩ => exact .inl ⟨h1.2 rfl, by cases e; exact h2.symm⟩
    | (false, x) :: bs, ⟨h1, _, h3⟩ => exact .inr ⟨fun k => Bool.noConfusion (h1.1 k), ih h3 e⟩

theorem allPass_of {as : List (Prop × Status)} {bs : List (Bool × Status)} (h : Decided as bs) (e : firstB bs = none) :
    AllPass as := by
  induction as generalizing bs with
  | nil => intro c hc; cases hc
  | cons a as ih =>
    match bs, h with
    | (true, x) :: bs, _ => cases e
    | (false, x) :: bs, ⟨h1, _, h3⟩ =>
      intro c hc
      rcases List.mem_cons.1 hc with rfl | hc
      · exact fun k => Bool.noConfusion (h1.1 k)
      · exact ih h3 e c hc

/-- A property of the record found. -/
theorem found {o : Option Record} {f : Record → Bool} {P : Record → Prop} (h : ∀ r, P r ↔ f r = true) :
    (∃ r, o = some r ∧ P r) ↔ o.any f = true := by
  cases o with
  | none => simp
  | some r => simp [h]

/-- The checks of R22, decided. -/
def openB (p : Port) (branch priority : Byte) (admin : Bool) : List (Bool × Status) :=
  [(decide (7 < branch.toNat) || decide (7 < priority.toNat), .badParam), (admin && p != 0, .notAdmin)]

theorem open_decided (p : Port) (branch priority : Byte) (admin : Bool) :
    Decided (openChecks p branch priority admin) (openB p branch priority admin) := by
  simp [openChecks, openB, Decided]

/-- The checks of R39 and R40, decided. -/
def acquireB (s : State) (c : ClientId) (n : Name) (mode : Byte) : List (Bool × Status) :=
  [(n == 0#16 || (mode != 0#8 && mode != 1#8), .badParam),
   ((s.find n).isNone, .noResource),
   ((s.find n).any (fun r => r.state == .draining), .retiring),
   (mode == 1#8 && (s.find n).any (fun r => r.shareLimit == 1), .badMode),
   (decide (∃ i, (s.slot c i).isWaiting = true), .waitBusy),
   (decide (∃ i, (s.slot c i).liveName = some n), .already),
   ((s.find n).any (fun r => decide (∃ i, ((s.slot c i).liveName.bind s.find).any (fun q => decide (r.rank ≤ q.rank)) =
      true)), .order),
   (decide (∀ i, s.slot c i ≠ .free), .slotsFull)]

theorem acquire_decided (s : State) (c : ClientId) (n : Name) (mode : Byte) :
    Decided (acquireChecks s c n mode) (acquireB s c n mode) := by
  refine ⟨by simp, rfl, by simp, rfl, found (by simp), rfl, ?_, rfl, by simp, rfl, by simp, rfl, ?_, rfl, by simp, rfl,
    trivial⟩
  · simp only [Bool.and_eq_true, beq_iff_eq]
    exact and_congr_right fun _ => found (by simp)
  · refine Iff.trans ?_ (found (P := fun r => ∃ i m q, (s.slot c i).liveName = some m ∧ s.find m = some q ∧
      r.rank ≤ q.rank) ?_)
    · constructor
      · rintro ⟨r, i, m, q, a, b⟩; exact ⟨r, a, i, m, q, b⟩
      · rintro ⟨r, a, i, m, q, b⟩; exact ⟨r, i, m, q, a, b⟩
    · intro r
      simp only [decide_eq_true_eq]
      refine exists_congr fun i => ?_
      cases (s.slot c i).liveName with
      | none => simp
      | some m => cases h : s.find m <;> simp [h]

/-- The checks of R6 and R7, decided. -/
def defineB (s : State) (c : ClientId) (d : DefineParams) : List (Bool × Status) :=
  [(!(s.client c).admin, .notAdmin),
   (d.name == 0#16 || decide (15 < d.rank.toNat) || d.shareLimit == 0#8 || decide (8 < d.shareLimit.toNat) ||
      d.leaseTerm == 0#16 || decide (1 < d.gatePresent.toNat) ||
      (d.gatePresent == 1#8 && (decide (15 < d.gateChannel.toNat) || d.deadTime == 0#16 ||
        decide (1000 < d.deadTime.toNat) || decide (1 < d.shareLimit.toNat))), .badParam),
   ((s.find d.name).isSome, .duplicate),
   (decide (128 ≤ s.records.length), .dirFull),
   (d.gatePresent == 1#8 && decide (∃ g : ChannelId, d.gateChannel.toNat = g.val ∧
      ((s.channel g).binding ≠ none ∨ (s.channel g).state ≠ .disconnected)), .channelBusy)]

theorem define_decided (s : State) (c : ClientId) (d : DefineParams) :
    Decided (defineChecks s c d) (defineB s c d) := by
  refine ⟨by simp, rfl, by simp [or_assoc], rfl, by simp [Option.isSome_iff_ne_none], rfl, by simp, rfl, by simp, rfl, trivial⟩

/-- The checks of R6 and R9, decided. -/
def amendB (s : State) (c : ClientId) (a : AmendParams) : List (Bool × Status) :=
  [(!(s.client c).admin, .notAdmin),
   (a.name == 0#16 || a.leaseTerm == 0#16 || a.shareLimit == 0#8 || decide (8 < a.shareLimit.toNat) ||
      decide (15 < a.rank.toNat), .badParam),
   ((s.find a.name).isNone, .noResource),
   ((s.find a.name).any (fun r => r.gate.isSome && a.shareLimit != 1#8), .badParam),
   ((s.find a.name).any (fun r => decide (a.shareLimit.toNat < r.holders.length)), .badParam),
   ((s.find a.name).any (fun r => a.rank.toNat != r.rank.val && (r.holders != [] || r.waiters != [])), .resourceBusy)]

theorem amend_decided (s : State) (c : ClientId) (a : AmendParams) :
    Decided (amendChecks s c a) (amendB s c a) := by
  refine ⟨by simp, rfl, by simp [or_assoc], rfl, by simp, rfl, found (by simp [Option.isSome_iff_ne_none]), rfl,
    found (by simp), rfl, found (by simp), rfl, trivial⟩

/-- The checks of R6 and R12, decided. -/
def retireB (s : State) (c : ClientId) (n : Name) (mode : Byte) : List (Bool × Status) :=
  [(!(s.client c).admin, .notAdmin), (n == 0#16 || (mode != 0#8 && mode != 1#8), .badParam),
   ((s.find n).isNone, .noResource)]

theorem retire_decided (s : State) (c : ClientId) (n : Name) (mode : Byte) :
    Decided (retireChecks s c n mode) (retireB s c n mode) := by
  simp [retireChecks, retireB, Decided]

/-- The checks of R6 and R117, decided. -/
def seedB (s : State) (c : ClientId) (v : Gen) : List (Bool × Status) :=
  [(!(s.client c).admin, .notAdmin), (v == 0#32, .badParam), (s.generation != 0#32, .badState)]

theorem seed_decided (s : State) (c : ClientId) (v : Gen) : Decided (seedChecks s c v) (seedB s c v) := by
  simp [seedChecks, seedB, Decided]

/-- A port with a request handed over and not yet screened. -/
def handedAt (p : Port) (r : Request) : State := world.setPort p { world.port p with slot := .working (.handed r) }

/-- FAULTED port 3 with a request that was screened before its fault was taken. -/
def screenedAt3 (r : Request) : State := world.setPort 3 { world.port 3 with slot := .working (.screened r .fresh) }

theorem handed_backed (p : Port) (r : Request) : ListsBacked (handedAt p r) := world_backed

theorem handed_agree (p : Port) (r : Request) : ListsAgree (handedAt p r) := world_listsAgree

theorem screened_backed (r : Request) : ListsBacked (screenedAt3 r) := world_backed

theorem screened_agree (r : Request) : ListsAgree (screenedAt3 r) := world_listsAgree

/-! ### Witnesses: the step, frames, ports

Each theorem shows a state and operands that meet the hypotheses of the statement it is named after. -/

theorem witness_StepRunsTheFrontCommand :
    (worldWith [.poll 0 ⟨⟨0, 0#4, 0#8⟩, []⟩, .probe 1 ⟨0, 0#4, 2#8⟩]).pending = .poll 0 ⟨⟨0, 0#4, 0#8⟩, []⟩ :: [.probe 1 ⟨0, 0#4, 2#8⟩] ∧ world.pending = [] := ⟨rfl, rfl⟩

/-- A POLL of 64 bytes. -/
def longPoll : Instr := .poll 5 ⟨⟨15, 15#4, 0xFF#8⟩, List.replicate 59 0xFF#8⟩

theorem witness_DecodeReadsEncodedFrame :
    (longPoll.wf = true ∧ instrPort longPoll = some (5, .atFrameEnd) ∧ ∃ bytes, encodeFrame longPoll = some bytes) ∧
    (Instr.retireGraceful 7 (head 15) 9#16 0xFF#8 .later).wf = true ∧
    instrPort (.retireGraceful 7 (head 15) 9#16 0xFF#8 .later) = some (7, .later) ∧
      ∃ bytes, encodeFrame (.retireGraceful 7 (head 15) 9#16 0xFF#8 .later) = some bytes :=
  ⟨⟨by decide, rfl, _, rfl⟩, by decide, rfl, _, rfl⟩

/-- The five bytes of the PROBE of R165. -/
def probeFrame : List Byte := [0x05#8, 0x00#8, 0x00#8, 0x02#8, 0x40#8]

theorem witness_CheckByteIsTheCrc : (receive (bitsOf probeFrame)).good = true := by decide +kernel

theorem witness_FrameIsBadExactlyWhen :
    (([true] : List Bool).length < 8 ∧ (([] : List Byte) ≠ [] ∨ [true] ≠ [])) ∧
    ((List.replicate 7 true).length < 8 ∧ (probeFrame ≠ [] ∨ List.replicate 7 true ≠ [])) ∧
    (([] : List Bool).length < 8 ∧ ([0x04#8] ≠ [] ∨ ([] : List Bool) ≠ [])) ∧
    (([] : List Bool).length < 8 ∧ (probeFrame ≠ [] ∨ ([] : List Bool) ≠ [])) ∧ probeFrame[4]? = some 0x40#8 ∧ 7 < 8 := by
  decide

/-- A resource view with every field at its greatest. -/
def fullView : ResourceView :=
  { name := 0xFFFF#16, state := .draining, rank := 15, shareLimit := 8, leaseTerm := 0xFFFF#16, recallGrace := 0xFFFF#16
    gate := some (15, 1000#16), holders := List.replicate 8 ⟨15, 7, .shared, 0xFFFFFFFF#32, .recalled⟩
    waiterCount := 16, headPriority := some 7 }

theorem witness_AnswerFrameLayout :
    Answerable (.page true (List.replicate 12 7#16)) ∧ Answerable (.resourceView fullView) ∧ Answerable .nothing :=
  ⟨by show _ ≤ 12; decide, by show _ ≤ 8; decide, trivial⟩

theorem witness_ResourceViewBytes :
    (1 ≤ fullView.shareLimit ∧ fullView.shareLimit ≤ 8 ∧ fullView.waiterCount ≤ 16 ∧
      ∀ x ∈ fullView.gate, x.2.toNat ≤ 1000) ∧
    1 ≤ ({ fullView with shareLimit := 1, gate := none } : ResourceView).shareLimit ∧
    ∀ x ∈ ({ fullView with shareLimit := 1, gate := none } : ResourceView).gate, x.2.toNat ≤ 1000 :=
  ⟨⟨by decide, by decide, by decide, fun x h => by cases h; decide⟩, by decide, fun x h => by cases h⟩

/-- A port's frame ended. -/
def idleAt (p : Port) : State := world.setPort p { world.port p with frame := none }

theorem witness_FrameStartFixesTheContent :
    ((idleAt 3).inReset = false ∧ ((idleAt 3).port 3).frame = none ∧ ((idleAt 3).port 3).link = .faulted) ∧
    (((idleAt 5).port 5).frame = none ∧ ((idleAt 5).port 5).link = .up ∧
      ((idleAt 5).port 5).slot = .ready shortAnswer) ∧
    (((idleAt 6).port 6).frame = none ∧ ((idleAt 6).port 6).slot = .working (.done shortAnswer)) ∧
    (((idleAt 0).port 0).frame = none ∧ ((idleAt 0).port 0).slot = .empty) ∧
    (exec (.badFrame ⟨0, [true]⟩) world = .next (after (.badFrame ⟨0, [true]⟩) world) ∧
      (world.port 0).frame = some (begun .idleFill) ∧ 7 < 8) ∧
    (after .chipReset world).inReset = true ∧ Answerable shortAnswer.payload :=
  ⟨⟨rfl, rfl, rfl⟩, ⟨rfl, rfl, rfl⟩, ⟨rfl, rfl⟩, ⟨rfl, rfl⟩, ⟨rfl, rfl, by decide⟩, rfl, trivial⟩

theorem witness_BadFrameRaisesScoreAndCounter :
    ((world.port 3).frame ≠ none ∧ (world.port 3).link = .faulted) ∧
    ((world.port 1).frame ≠ none ∧ (world.port 1).link = .up ∧ (world.port 1).score + 8 < 32) ∧
    (world.port 2).frame ≠ none ∧ (world.port 2).link = .up ∧ 32 ≤ (world.port 2).score + 8 := by decide +kernel

theorem overrun_ready : Overrun world 5 6 :=
  ⟨rfl, _, rfl, .inr ⟨shortAnswer, rfl, fun b h => by cases h; decide⟩⟩

theorem overrun_working : Overrun world 6 5 := ⟨rfl, _, rfl, .inl ⟨_, rfl⟩⟩

theorem witness_DroppedRequestReachesNoOwner :
    (Claims.goodFrame (.poll 5 ⟨⟨0, 0#4, 0#8⟩, [7#8]⟩) = some (5, 6) ∧ Overrun world 5 6) ∧
    (Claims.goodFrame (.linkReset 6 ⟨0, 0#4, 1#8⟩) = some (6, 5) ∧ Overrun world 6 5) ∧
    (Claims.goodFrame (.fetch 6 (head 3) .later) = some (6, 5) ∧ Overrun world 6 5) ∧
    Claims.goodFrame (.probe 3 ⟨0, 0#4, 1#8⟩) = some (3, 5) ∧ (∀ h, Instr.probe 3 ⟨0, 0#4, 1#8⟩ ≠ .linkReset 3 h) ∧
      (world.port 3).link = .faulted ∧ (world.port 3).frame ≠ none :=
  ⟨⟨rfl, overrun_ready⟩, ⟨rfl, overrun_working⟩, ⟨rfl, overrun_working⟩, rfl, (fun _ h => by cases h), rfl,
    Option.some_ne_none _⟩

theorem witness_PollConsumesACarriedAnswer :
    ([1#8, 2#8].length ≤ 59 ∧ Taken world 5 ([1#8, 2#8].length + 5)) ∧
    ((List.replicate 59 0#8).length ≤ 59 ∧ Taken world 0 ((List.replicate 59 0#8).length + 5)) ∧
    ([1#8].length ≤ 59 ∧ Overrun world 5 ([1#8].length + 5)) ∧
    (([] : List Byte).length ≤ 59 ∧ Overrun world 6 (([] : List Byte).length + 5)) ∧
    (world.port 4).link = .faulted ∧ (world.port 4).frame ≠ none :=
  ⟨⟨by decide, taken_of (by decide +kernel)⟩, ⟨by decide, taken_of (by decide +kernel)⟩,
    ⟨by decide, overrun_ready⟩, ⟨by decide, overrun_working⟩, rfl, Option.some_ne_none _⟩

theorem witness_ProbeReportsThePart :
    [0#8] ≠ [] ∧ ((world.port 3).link = .faulted ∧ (world.port 3).frame ≠ none) ∧ Taken world 0 5 ∧ Taken world 1 5 :=
  ⟨by decide, ⟨rfl, Option.some_ne_none _⟩, taken_of (by decide +kernel), taken_of (by decide +kernel)⟩

theorem witness_MalformedRequestIsBadRequest :
    (List.replicate 59 0x40#8).length ≤ 59 ∧ Taken world 5 ([1#8, 2#8].length + 5) ∧ (world.port 3).link = .faulted ∧
      (world.port 3).frame ≠ none :=
  ⟨by decide, taken_of (by decide +kernel), rfl, Option.some_ne_none _⟩

/-- Port 3 with a READY answer. -/
def readyAt3 : State := world.setPort 3 { world.port 3 with slot := .ready shortAnswer }

theorem witness_LinkResetReopensThePort :
    (ResetTaken world 0 ∧ (world.port 0).faultReport = false) ∧
    (ResetTaken world 3 ∧ (world.port 3).faultReport = false ∧ Claims.isSuspectOn world 3 9 = true) ∧
    (ResetTaken readyAt3 3 ∧ (readyAt3.port 3).faultReport = false) ∧ (ClientsLawful world ∧ (world.port 0).link = .up) ∧
    (world.port 7).link = .faulted ∧ (world.port 7).frame ≠ none ∧ (world.port 7).slot = .working (.screened openTwelve .plainOpen) :=
  ⟨⟨.inl (taken_of (by decide +kernel)), rfl⟩,
    ⟨.inr ⟨rfl, Option.some_ne_none _, fun w h => by cases h⟩, rfl, by decide +kernel⟩,
    ⟨.inr ⟨rfl, Option.some_ne_none _, fun w h => by cases h⟩, rfl⟩, ⟨world_clients, rfl⟩, rfl,
    Option.some_ne_none _, rfl⟩

theorem witness_RequestHandedOverAndAnswerPlaced :
    (clientRequest (.fetch 0 (head 0) .later) = some (0, ⟨head 0, .fetch⟩, .later) ∧
      Taken world 0 (requestLength ⟨head 0, .fetch⟩)) ∧
    (world.port 6).slot = .working (.done shortAnswer) ∧ (∀ w, (world.port 5).slot ≠ .working w) ∧
    clientRequest (.fetch 0 (head 0) .atFrameEnd) = some (0, ⟨head 0, .fetch⟩, .atFrameEnd) ∧
    exec (.fetch 0 (head 0) .later) world = .next (after (.fetch 0 (head 0) .later) world) ∧
    exec (.fetch 0 (head 0) .atFrameEnd) world = .next (after (.fetch 0 (head 0) .atFrameEnd) world) ∧
    (∀ q, ∀ x ∈ screenedOn (world.port q), x.1.header.client = 5 → x.2.rebinds x.1 = false) ∧
    (ScreenedLawful world ∧ (world.port 7).slot = .working (.screened openTwelve .plainOpen) ∧
      exec (.answerPlaced 7) world = .next (after (.answerPlaced 7) world)) ∧
    ScreenedLawful (screenedAt3 ⟨head 9, .close⟩) ∧
      ((screenedAt3 ⟨head 9, .close⟩).port 3).slot = .working (.screened ⟨head 9, .close⟩ .fresh) ∧
      bodyKind Body.close = .close ∧
      exec (.answerPlaced 3) (screenedAt3 ⟨head 9, .close⟩) =
        .next (after (.answerPlaced 3) (screenedAt3 ⟨head 9, .close⟩)) :=
  ⟨⟨rfl, taken_of (by decide +kernel)⟩, rfl, (fun w h => by cases h), rfl, rfl, rfl, by decide +kernel,
    ⟨world_screened, rfl, rfl⟩, by unfold ScreenedLawful; decide +kernel, rfl, rfl, rfl⟩

theorem witness_CountersCountAndSaturate :
    (exec .chipReset world = .next (after .chipReset world)) ∧
    (exec (.badFrame ⟨6, [true]⟩) world = .next (after (.badFrame ⟨6, [true]⟩) world) ∧ Instr.badFrame ⟨6, [true]⟩ ≠ .chipReset ∧
      BadFrameOn (.badFrame ⟨6, [true]⟩) world 6) ∧
    (exec (.poll 5 ⟨⟨0, 0#4, 0#8⟩, [7#8]⟩) world = .next (after (.poll 5 ⟨⟨0, 0#4, 0#8⟩, [7#8]⟩) world) ∧
      DroppedOn (.poll 5 ⟨⟨0, 0#4, 0#8⟩, [7#8]⟩) world 5) ∧
    exec (.linkReset 7 ⟨0, 0#4, 1#8⟩) world = .next (after (.linkReset 7 ⟨0, 0#4, 1#8⟩) world) ∧
      DroppedOn (.linkReset 7 ⟨0, 0#4, 1#8⟩) world 7 :=
  ⟨rfl, ⟨rfl, by decide, ⟨_, rfl⟩, Option.some_ne_none _⟩, ⟨rfl, .inl ⟨6, rfl, overrun_ready⟩⟩, rfl,
    .inr ⟨⟨_, rfl⟩, rfl, Option.some_ne_none _, _, rfl⟩⟩

theorem witness_PortsAreIndependent :
    (exec (.badFrame ⟨2, [true]⟩) world = .next (after (.badFrame ⟨2, [true]⟩) world) ∧ portOf (.badFrame ⟨2, [true]⟩) ≠ some 0 ∧
      Instr.badFrame ⟨2, [true]⟩ ≠ .chipReset) ∧
    exec (.expiry 3 0) world = .next (after (.expiry 3 0) world) ∧ portOf (.expiry 3 0) ≠ some 1 ∧
      Instr.expiry 3 0 ≠ .chipReset :=
  ⟨⟨rfl, by decide, by decide⟩, rfl, by decide, by decide⟩

/-! Commands waiting leave the laws of a state alone. -/

theorem lawful_pending (s : State) (l : List Instr) (h : Lawful s) : Lawful { s with pending := l } := h

theorem world_step (i : Instr) : step (worldWith [i]) = .next (after i world) := by
  cases i <;> rfl

theorem witness_StepKeepsPortAndClientLaws :
    PortsLawful (worldWith [.badFrame ⟨2, [true]⟩]) ∧ ClientsLawful (worldWith [.badFrame ⟨2, [true]⟩]) ∧
    ScreenedLawful (worldWith [.badFrame ⟨2, [true]⟩]) ∧
    step (worldWith [.badFrame ⟨2, [true]⟩]) = .next (after (.badFrame ⟨2, [true]⟩) world) :=
  ⟨(lawful_pending world _ world_lawful).2.1, (lawful_pending world _ world_lawful).2.2.1, world_screened, world_step _⟩

/-! ### Witnesses: screening, replay and refusal -/

/-- A request of client 5 with its cached sequence number. -/
def cachedRequest : Request := ⟨⟨5, 0#4, 9#8⟩, .fetch⟩

/-- Client 5 has that request in its cache. -/
def replayWorld : State :=
  world.setClient 5 { world.client 5 with cache := some { cacheNine with check := requestCheck cachedRequest } }

theorem witness_BindingCheckAnswers :
    (world.carryEarlier 3 = world ∧ (world.client 3).state ≠ .closed ∧ (world.client 3).port ≠ some 0 ∧
      clientRequest (.fetch 0 (head 3) .atFrameEnd) = some (0, ⟨head 3, .fetch⟩, .atFrameEnd) ∧
      Taken world 0 (requestLength ⟨head 3, .fetch⟩)) ∧
    (((handedAt 4 ⟨head 3, .fetch⟩).carryEarlier 3).client 3 = world.client 3 ∧
      ((handedAt 4 ⟨head 3, .fetch⟩).port 4).slot = .working (.handed ⟨head 3, .fetch⟩)) ∧
    (((world.carryEarlier 12).client 12).state = .suspect ∧ ((world.carryEarlier 12).client 12).port = some 7) ∧
    clientRequest (.fetch 0 (head 1) .atFrameEnd) = some (0, ⟨head 1, .fetch⟩, .atFrameEnd) ∧
      Taken world 0 (requestLength ⟨head 1, .fetch⟩) ∧ ((world.carryEarlier 1).client 1).state = .closed ∧
      bodyKind Body.fetch ≠ .openClient ∧ bodyKind Body.fetch ≠ .close :=
  ⟨⟨by decide +kernel, by decide +kernel, by decide +kernel, rfl, taken_of (by decide +kernel)⟩,
    ⟨by decide +kernel, rfl⟩, ⟨by decide +kernel, by decide +kernel⟩, rfl, taken_of (by decide +kernel),
    by decide +kernel, by decide, by decide⟩

theorem witness_SequenceCheckClasses_replay :
    clientRequest (.fetch 2 ⟨5, 0#4, 9#8⟩ .atFrameEnd) = some (2, cachedRequest, .atFrameEnd) ∧
    Taken replayWorld 2 (requestLength cachedRequest) ∧ (replayWorld.client 5).state ≠ .closed ∧
    (replayWorld.client 5).port = some 2 ∧ screenedOn (replayWorld.port 2) = none ∧
    (replayWorld.client 5).cache = some { cacheNine with check := requestCheck cachedRequest } ∧
    sameAsCached { cacheNine with check := requestCheck cachedRequest } cachedRequest :=
  ⟨rfl, taken_of (by decide +kernel), by decide +kernel, rfl, rfl, rfl, rfl, rfl, by decide +kernel⟩

theorem not_plain (h : Header) (b : Body) (k : bodyKind b ≠ .openClient) : ¬ plainOpenRequest ⟨h, b⟩ := by
  rintro ⟨x, y, z, e, -⟩
  cases e
  exact k rfl

theorem witness_SequenceCheckClasses :
    ((world.client 5).state ≠ .closed ∧ (world.client 5).port = some 2 ∧ (world.client 5).cache = some cacheNine) ∧
    (let r := openingRequest false ⟨5, 0#4, 9#8⟩ 0#8 0#8 false 0#6
     clientRequest (.openClient 2 ⟨5, 0#4, 9#8⟩ 0#8 0#8 false 0#6 .atFrameEnd) = some (2, r, .atFrameEnd) ∧
     Taken world 2 (requestLength r) ∧ ¬ sameAsCached cacheNine r ∧ plainOpenRequest r) ∧
    (let r : Request := ⟨⟨5, 0#4, 9#8⟩, .renewAll⟩
     clientRequest (.renewAll 2 ⟨5, 0#4, 9#8⟩ .atFrameEnd) = some (2, r, .atFrameEnd) ∧
     Taken world 2 (requestLength r) ∧ ¬ sameAsCached cacheNine r ∧ ¬ plainOpenRequest r ∧ r.header.seq = cacheNine.seq) ∧
    (let r : Request := ⟨⟨5, 0#4, 11#8⟩, .renewAll⟩
     clientRequest (.renewAll 2 ⟨5, 0#4, 11#8⟩ .atFrameEnd) = some (2, r, .atFrameEnd) ∧
     Taken world 2 (requestLength r) ∧ ¬ plainOpenRequest r ∧ r.header.seq ≠ cacheNine.seq ∧
     r.header.seq ≠ cacheNine.seq + 1#8) ∧
    (let r : Request := ⟨⟨5, 0#4, 10#8⟩, .renewAll⟩
     clientRequest (.renewAll 2 ⟨5, 0#4, 10#8⟩ .atFrameEnd) = some (2, r, .atFrameEnd) ∧
     Taken world 2 (requestLength r) ∧ ¬ plainOpenRequest r ∧ r.header.seq = cacheNine.seq + 1#8) ∧
    (let r : Request := ⟨head 10, .renewAll⟩
     ((handedAt 4 r).port 4).slot = .working (.handed r) ∧ ((handedAt 4 r).client 10).state ≠ .closed ∧
     ((handedAt 4 r).client 10).port = some 4 ∧ ((handedAt 4 r).client 10).cache = some cacheNine ∧
     clientRequest (.renewAll 4 (head 10) .atFrameEnd) = some (4, r, .atFrameEnd) ∧ ¬ plainOpenRequest r ∧
     r.header.seq = cacheNine.seq + 1#8) :=
  ⟨⟨by decide +kernel, rfl, rfl⟩, ⟨rfl, taken_of (by decide +kernel), by unfold sameAsCached; decide, _, _, _, rfl, by decide⟩,
    ⟨rfl, taken_of (by decide +kernel), by unfold sameAsCached; decide, not_plain _ _ (by decide), rfl⟩,
    ⟨rfl, taken_of (by decide +kernel), not_plain _ _ (by decide), by decide, by decide⟩,
    ⟨rfl, taken_of (by decide +kernel), not_plain _ _ (by decide), by decide⟩,
    ⟨rfl, by decide +kernel, rfl, rfl, rfl, not_plain _ _ (by decide), rfl⟩⟩

/-- Client 13, CLOSED, has its CLOSE with sequence number 9 in its cache. -/
def closeWorld : State :=
  world.setClient 13 { world.client 13 with
    cache := some { cacheNine with kind := .close, check := requestCheck ⟨⟨13, 0#4, 9#8⟩, .close⟩ } }

theorem witness_CloseOfClosedClient :
    closeWorld.carryEarlier 13 = closeWorld ∧
    (Taken closeWorld 0 (requestLength ⟨⟨13, 0#4, 9#8⟩, .close⟩) ∧ (closeWorld.client 13).state = .closed ∧
      ∃ k, (closeWorld.client 13).cache = some k ∧ (closeWorld.client 13).port = some 0 ∧ k.kind = .close ∧ 9#8 = k.seq ∧
        requestCheck ⟨⟨13, 0#4, 9#8⟩, .close⟩ = k.check) ∧
    Taken closeWorld 0 (requestLength ⟨⟨13, 0#4, 10#8⟩, .close⟩) ∧
    ∀ k, (closeWorld.client 13).cache = some k → (closeWorld.client 13).port = some 0 → k.kind = .close → 10#8 = k.seq →
      requestCheck ⟨⟨13, 0#4, 10#8⟩, .close⟩ ≠ k.check :=
  ⟨by decide +kernel, ⟨taken_of (by decide +kernel), rfl, _, rfl, rfl, rfl, rfl, by decide +kernel⟩, taken_of (by decide +kernel),
    fun k h _ _ e => by cases h; exact absurd e (by decide)⟩

theorem witness_RefusalChangesNothing :
    clientRequest (.slotRead 2 (head 5) 8#8 .atFrameEnd) = some (2, ⟨head 5, .slotRead 8#8⟩, .atFrameEnd) ∧
    Taken world 2 (requestLength ⟨head 5, .slotRead 8#8⟩) ∧
    exec (.slotRead 2 (head 5) 8#8 .atFrameEnd) world = .next (after (.slotRead 2 (head 5) 8#8 .atFrameEnd) world) ∧
    ∃ a, ((after (.slotRead 2 (head 5) 8#8 .atFrameEnd) world).port 2).slot = .working (.done a) ∧
      16 ≤ (statusCode a.status).toNat :=
  ⟨rfl, taken_of (by decide +kernel), rfl, answerFor ⟨head 5, .slotRead 8#8⟩ .badParam .nothing, by decide +kernel,
    by decide⟩

/-! ### Witnesses: clients -/

/-- An OPEN of client 1, with branch 7 and priority 7. -/
def openOne : Request := openingRequest false ⟨1, 0#4, 3#8⟩ 7#8 7#8 false 0#6

theorem witness_OpenForClosedClient :
    (((world.carryEarlier 1).client 1).state = .closed ∧
      Taken world 0 (requestLength (openingRequest true ⟨1, 0#4, 3#8⟩ 8#8 0#8 true 0#6)) ∧
      FirstFailing (openChecks 0 8#8 0#8 true) .badParam) ∧
    (Taken world 1 (requestLength (openingRequest false ⟨1, 0#4, 3#8⟩ 7#8 7#8 true 0#6)) ∧
      FirstFailing (openChecks 1 7#8 7#8 true) .notAdmin) ∧
    (Taken world 0 (requestLength (openingRequest true ⟨1, 0#4, 3#8⟩ 7#8 0#8 true 0#6)) ∧
      AllPass (openChecks 0 7#8 0#8 true) ∧ (7#8 : Byte).toNat = (7 : Fin 8).val ∧ (0#8 : Byte).toNat = (0 : Fin 8).val) ∧
    ((((handedAt 4 openOne).carryEarlier 1).client 1).state = .closed ∧
      ((handedAt 4 openOne).port 4).slot = .working (.handed openOne) ∧ ((handedAt 4 openOne).port 4).link = .faulted ∧
      AllPass (openChecks 4 7#8 7#8 false) ∧ FirstFailing (openChecks 4 7#8 8#8 false) .badParam) ∧
    AllPass (openChecks 7 7#8 7#8 false) ∧ (world.port 7).slot = .working (.screened openTwelve .plainOpen) ∧
      (world.port 7).link = .faulted :=
  ⟨⟨by decide +kernel, taken_of (by decide +kernel), firstFailing_of (open_decided _ _ _ _) (by decide)⟩,
    ⟨taken_of (by decide +kernel), firstFailing_of (open_decided _ _ _ _) (by decide)⟩,
    ⟨taken_of (by decide +kernel), allPass_of (open_decided _ _ _ _) (by decide), rfl, rfl⟩,
    ⟨by decide +kernel, rfl, rfl, allPass_of (open_decided _ _ _ _) (by decide),
      firstFailing_of (open_decided _ _ _ _) (by decide)⟩,
    allPass_of (open_decided _ _ _ _) (by decide), rfl, rfl⟩

theorem witness_TakeoverReplacesTheContext :
    (New world 1 (openingRequest true (head 3) 7#8 8#8 false 0#6) ∧ FirstFailing (openChecks 1 7#8 8#8 false) .badParam) ∧
    (New world 1 (openingRequest true (head 3) 7#8 7#8 true 0#6) ∧ FirstFailing (openChecks 1 7#8 7#8 true) .notAdmin) ∧
    (New world 1 (openingRequest true (head 3) 7#8 0#8 false 0#6) ∧ AllPass (openChecks 1 7#8 0#8 false) ∧
      (7#8 : Byte).toNat = (7 : Fin 8).val ∧ (0#8 : Byte).toNat = (0 : Fin 8).val) ∧
    (let r := openingRequest true (head 9) 7#8 0#8 false 0#6
     Fresh (screenedAt3 r) 3 r ∧ ((screenedAt3 r).port 3).slot = .working (.screened r .fresh) ∧
      ((screenedAt3 r).port 3).link = .faulted ∧ AllPass (openChecks 3 7#8 0#8 false)) ∧
    (let r := openingRequest true (head 10) 7#8 0#8 false 0#6
     Fresh (handedAt 4 r) 4 r ∧ ((handedAt 4 r).port 4).slot = .working (.handed r) ∧
      ((handedAt 4 r).port 4).link = .faulted ∧ AllPass (openChecks 4 7#8 0#8 false)) :=
  ⟨⟨new_of (by decide +kernel), firstFailing_of (open_decided _ _ _ _) (by decide)⟩,
    ⟨new_of (by decide +kernel), firstFailing_of (open_decided _ _ _ _) (by decide)⟩,
    ⟨new_of (by decide +kernel), allPass_of (open_decided _ _ _ _) (by decide), rfl, rfl⟩,
    ⟨fresh_of (by decide +kernel), rfl, rfl, allPass_of (open_decided _ _ _ _) (by decide)⟩,
    fresh_of (by decide +kernel), rfl, rfl, allPass_of (open_decided _ _ _ _) (by decide)⟩

theorem witness_CloseFreesEverySlot :
    New world 1 ⟨head 3, .close⟩ ∧
    (Fresh (screenedAt3 ⟨head 9, .close⟩) 3 ⟨head 9, .close⟩ ∧
      ((screenedAt3 ⟨head 9, .close⟩).port 3).slot = .working (.screened ⟨head 9, .close⟩ .fresh)) ∧
    (Fresh (handedAt 4 ⟨head 10, .close⟩) 4 ⟨head 10, .close⟩ ∧
      ((handedAt 4 ⟨head 10, .close⟩).port 4).slot = .working (.handed ⟨head 10, .close⟩)) ∧
    world.slot 3 7 = .free ∧ world.slot 3 3 = .waiting 40#16 .exclusive none ∧
    world.slot 3 2 = .gating 30#16 .exclusive 3#32 ∧ world.slot 3 0 = .held 10#16 .exclusive 1#32 ⟨400#40, true⟩ ∧
    world.slot 3 1 = .recalled 20#16 .exclusive 2#32 ⟨600#40, false⟩ ⟨450#40, true⟩ ∧
    world.slot 3 4 = .ended 10#16 .shared (some 99#32) .expired :=
  ⟨new_of (by decide +kernel), ⟨fresh_of (by decide +kernel), rfl⟩, ⟨fresh_of (by decide +kernel), rfl⟩, rfl, rfl, rfl, rfl,
    rfl, rfl⟩

/-- The world after client 5's lease on the DRAINING resource 50 has left. -/
def drainedWorld : State := (world.leaveHolders 50#16 5 1).setSlot 5 1 .free

/-- The world after client 5's lease on the gated resource 60, now DRAINING, has left. -/
def drainedGate : State :=
  ((world.updateRecord 60#16 (fun r => { r with state := .draining })).leaveHolders 60#16 5 2).setSlot 5 2 .free

theorem witness_FollowUpSettlesTheResource :
    (∃ r, drainedWorld.find 50#16 = some r ∧ r.state = .draining ∧ r.holders = [] ∧ r.gate = none) ∧
    (∃ r, drainedGate.find 60#16 = some r ∧ r.state = .draining ∧ r.holders = [] ∧ r.gate = some 1) ∧
    (∃ r, world.find 40#16 = some r ∧ ¬ (r.state = .draining ∧ r.holders = [])) ∧
    (DirectoryLawful world ∧ ListsBacked world ∧
      ∃ r, world.find 50#16 = some r ∧ r.state = .draining ∧ ¬ (r.state = .draining ∧ r.holders = [])) ∧
    (∃ r, world.find 60#16 = some r ∧ r.gate = some 1 ∧ (world.channel 1).state = .connected 7) ∧
    ∃ r, world.find 10#16 = some r ∧ r.gate = none :=
  ⟨⟨_, rfl, rfl, rfl, rfl⟩, ⟨_, rfl, rfl, rfl, rfl⟩, ⟨_, rfl, by decide⟩,
    ⟨world_directory, world_backed, _, rfl, rfl, by decide⟩, ⟨_, rfl, rfl, rfl⟩, _, rfl, rfl⟩

theorem screenHanded_fetch : (handedAt 4 ⟨head 10, .fetch⟩).screenHanded 4 =
    world.setPort 4 { world.port 4 with slot := .working (.screened ⟨head 10, .fetch⟩ .fresh) } := by decide +kernel

theorem witness_PortFaultSuspendsTheClients :
    (ListsAgree world ∧ WaitsLawful world ∧ (world.port 4).faultReport = true) ∧
    ((world.client 10).state = .opened ∧ (world.client 10).port = some 4 ∧
      world.slot 10 0 = .waiting 10#16 .exclusive none) ∧
    (¬ ((world.client 3).state = .opened ∧ (world.client 3).port = some 4) ∧
      (world.slot 3 2).holding = some (30#16, .exclusive, 3#32) ∧ (world.slot 3 4).isEnded = true ∧
      world.slot 3 7 = .free) ∧
    (world.port 0).faultReport = false ∧
    (world.screenHanded 4 = world ∧ ∀ r, (world.port 4).slot ≠ .working (.handed r)) ∧
    (let z := handedAt 4 ⟨head 10, .fetch⟩
     ListsAgree (z.screenHanded 4) ∧ WaitsLawful (z.screenHanded 4) ∧ (z.port 4).faultReport = true ∧
      (((z.screenHanded 4).client 10).state = .opened ∧ ((z.screenHanded 4).client 10).port = some 4)) :=
  ⟨⟨world_listsAgree, world_waits, rfl⟩, ⟨rfl, rfl, rfl⟩, ⟨by decide +kernel, rfl, rfl, rfl⟩, rfl,
    ⟨rfl, fun r h => by cases h⟩, screenHanded_fetch ▸ world_listsAgree, screenHanded_fetch ▸ world_waits, rfl,
    by decide +kernel, by decide +kernel⟩

theorem witness_StepKeepsOneWaitPerClient :
    WaitsLawful (worldWith [.portFault 4]) ∧ ScreenedLawful (worldWith [.portFault 4]) ∧
    step (worldWith [.portFault 4]) = .next (after (.portFault 4) world) :=
  ⟨(lawful_pending world _ world_lawful).2.2.2.1, world_screened, world_step _⟩

/-! ### Witnesses: acquisition and waiting -/

/-- A client with no FREE slot. -/
def fullWorld : State :=
  world.setClient 14 { world.client 14 with slots := Vector.replicate 8 (.ended 10#16 .shared none .timeout) }

theorem witness_AcquireRefusedByFirstCheck :
    (New world 2 ⟨head 5, .acquire 0#16 0#8 0#16⟩ ∧ FirstFailing (acquireChecks world 5 0#16 0#8) .badParam) ∧
    (New world 2 ⟨head 5, .acquire 10#16 2#8 0#16⟩ ∧ FirstFailing (acquireChecks world 5 10#16 2#8) .badParam) ∧
    (New world 2 ⟨head 5, .acquire 11#16 0#8 0#16⟩ ∧ FirstFailing (acquireChecks world 5 11#16 0#8) .noResource) ∧
    (New world 2 ⟨head 5, .acquire 50#16 1#8 0#16⟩ ∧ FirstFailing (acquireChecks world 5 50#16 1#8) .retiring) ∧
    (New world 1 ⟨head 3, .acquire 20#16 1#8 0#16⟩ ∧ FirstFailing (acquireChecks world 3 20#16 1#8) .badMode) ∧
    (New world 1 ⟨head 3, .acquire 40#16 1#8 0#16⟩ ∧ FirstFailing (acquireChecks world 3 40#16 1#8) .waitBusy) ∧
    (New world 2 ⟨head 5, .acquire 40#16 1#8 0#16⟩ ∧ FirstFailing (acquireChecks world 5 40#16 1#8) .already) ∧
    (New world 2 ⟨head 5, .acquire 10#16 0#8 0#16⟩ ∧ FirstFailing (acquireChecks world 5 10#16 0#8) .order) ∧
    (New fullWorld 2 ⟨head 14, .acquire 70#16 0#8 0#16⟩ ∧ FirstFailing (acquireChecks fullWorld 14 70#16 0#8) .slotsFull) ∧
    (let r : Request := ⟨head 10, .acquire 70#16 0#8 0#16⟩
     Fresh (handedAt 4 r) 4 r ∧ ((handedAt 4 r).port 4).slot = .working (.handed r) ∧
      FirstFailing (acquireChecks (handedAt 4 r) 10 70#16 0#8) .waitBusy) ∧
    (let r : Request := ⟨head 9, .acquire 11#16 0#8 0#16⟩
     Fresh (screenedAt3 r) 3 r ∧ ((screenedAt3 r).port 3).slot = .working (.screened r .fresh) ∧
      FirstFailing (acquireChecks (screenedAt3 r) 9 11#16 0#8) .noResource) :=
  ⟨⟨new_of (by decide +kernel), firstFailing_of (acquire_decided _ _ _ _) (by decide +kernel)⟩,
    ⟨new_of (by decide +kernel), firstFailing_of (acquire_decided _ _ _ _) (by decide +kernel)⟩,
    ⟨new_of (by decide +kernel), firstFailing_of (acquire_decided _ _ _ _) (by decide +kernel)⟩,
    ⟨new_of (by decide +kernel), firstFailing_of (acquire_decided _ _ _ _) (by decide +kernel)⟩,
    ⟨new_of (by decide +kernel), firstFailing_of (acquire_decided _ _ _ _) (by decide +kernel)⟩,
    ⟨new_of (by decide +kernel), firstFailing_of (acquire_decided _ _ _ _) (by decide +kernel)⟩,
    ⟨new_of (by decide +kernel), firstFailing_of (acquire_decided _ _ _ _) (by decide +kernel)⟩,
    ⟨new_of (by decide +kernel), firstFailing_of (acquire_decided _ _ _ _) (by decide +kernel)⟩,
    ⟨new_of (by decide +kernel), firstFailing_of (acquire_decided _ _ _ _) (by decide +kernel)⟩,
    ⟨fresh_of (by decide +kernel), rfl, firstFailing_of (acquire_decided _ _ _ _) (by decide +kernel)⟩,
    fresh_of (by decide +kernel), rfl, firstFailing_of (acquire_decided _ _ _ _) (by decide +kernel)⟩

/-- The world after client 5 has released resource 60, whose channel now settles. -/
def settlingWorld : State :=
  ((world.leaveHolders 60#16 5 2).setSlot 5 2 .free).setChannel 1
    { binding := some 60#16, deadTime := some 1#16, state := .settling 0 }

theorem settling_backed : ListsBacked settlingWorld := by unfold ListsBacked; decide +kernel

/-- A wait for resource 40 that SUSPECT client 9 asks for. -/
def suspectWait : Request := ⟨head 9, .acquire 40#16 0#8 0xFFFF#16⟩

/-- A lease on resource 70 that SUSPECT client 9 asks for. -/
def suspectLease : Request := ⟨head 9, .acquire 70#16 0#8 0xFFFF#16⟩

/-- The wait was screened before the fault of port 3 was taken. -/
def suspectWorld : State := screenedAt3 suspectWait

theorem witness_AdmittedAcquireAnsweredFromItsSlot_granted :
    ListsBacked world ∧ New world 2 ⟨head 14, .acquire 70#16 1#8 0#16⟩ ∧ AllPass (acquireChecks world 14 70#16 1#8) ∧
    namesMode 1#8 .shared ∧
    ∃ a b g l, ((world.enqueue 14 1 70#16 .shared).grantPass (some 14) 70#16).slot 14 1 = .held a b g l :=
  ⟨world_backed, new_of (by decide +kernel), allPass_of (acquire_decided _ _ _ _) (by decide +kernel), .inr ⟨rfl, rfl⟩,
    70#16, .shared, 9#32, ⟨1000#40, false⟩, by decide +kernel⟩

theorem witness_AdmittedAcquireAnsweredFromItsSlot_pending :
    ListsBacked settlingWorld ∧ New settlingWorld 2 ⟨head 14, .acquire 60#16 0#8 0xFFFF#16⟩ ∧
    AllPass (acquireChecks settlingWorld 14 60#16 0#8) ∧ namesMode 0#8 .exclusive ∧
    (∃ a b g, ((settlingWorld.enqueue 14 1 60#16 .exclusive).grantPass (some 14) 60#16).slot 14 1 = .gating a b g) ∧
    ((settlingWorld.enqueue 14 1 60#16 .exclusive).grantPass (some 14) 60#16).gateOf 60#16 = some 1 :=
  ⟨settling_backed, new_of (by decide +kernel), allPass_of (acquire_decided _ _ _ _) (by decide +kernel), .inl ⟨rfl, rfl⟩,
    ⟨60#16, .exclusive, 9#32, by decide +kernel⟩, by decide +kernel⟩

theorem witness_AdmittedAcquireAnsweredFromItsSlot_waiting :
    (AllPass (acquireChecks world 14 40#16 0#8) ∧ namesMode 0#8 .exclusive ∧
      (((world.enqueue 14 1 40#16 .exclusive).grantPass (some 14) 40#16).slot 14 1).isWaiting = true ∧
      (world.client 14).state ≠ .suspect) ∧
    New world 2 ⟨head 14, .acquire 40#16 0#8 0#16⟩ ∧ New world 2 ⟨head 14, .acquire 40#16 0#8 0xFFFF#16⟩ ∧
    New world 2 ⟨head 14, .acquire 40#16 0#8 1#16⟩ ∧ New world 2 ⟨head 14, .acquire 40#16 0#8 0xFFFE#16⟩ :=
  ⟨⟨allPass_of (acquire_decided _ _ _ _) (by decide +kernel), .inl ⟨rfl, rfl⟩, by decide +kernel, by decide +kernel⟩,
    new_of (by decide +kernel), new_of (by decide +kernel), new_of (by decide +kernel), new_of (by decide +kernel)⟩

/-- SUSPECT client 9, whose ACQUIRE was screened before its port's fault was taken: one that is not granted, and one that is. -/
theorem witness_AdmittedAcquireAnsweredFromItsSlot_suspect :
    (ListsBacked suspectWorld ∧ Fresh suspectWorld 3 suspectWait ∧
      (suspectWorld.port 3).slot = .working (.screened suspectWait .fresh) ∧ (suspectWorld.port 3).link = .faulted ∧
      AllPass (acquireChecks suspectWorld 9 40#16 0#8) ∧ (suspectWorld.client 9).state = .suspect ∧
      (((suspectWorld.enqueue 9 0 40#16 .exclusive).grantPass (some 9) 40#16).slot 9 0).isWaiting = true) ∧
    Fresh (screenedAt3 suspectLease) 3 suspectLease ∧
      ((screenedAt3 suspectLease).port 3).slot = .working (.screened suspectLease .fresh) ∧
      AllPass (acquireChecks (screenedAt3 suspectLease) 9 70#16 0#8) ∧
      ((((screenedAt3 suspectLease).enqueue 9 0 70#16 .exclusive).grantPass (some 9) 70#16).slot 9 0).leased = true :=
  ⟨⟨screened_backed _, fresh_of (by decide +kernel), rfl, rfl, allPass_of (acquire_decided _ _ _ _) (by decide +kernel), rfl,
      by decide +kernel⟩,
    fresh_of (by decide +kernel), rfl, allPass_of (acquire_decided _ _ _ _) (by decide +kernel), by decide +kernel⟩

/-- An ACQUIRE left for later on a port in UP. -/
theorem witness_AdmittedAcquireAnsweredFromItsSlot_handed :
    let r : Request := ⟨head 14, .acquire 40#16 0#8 0#16⟩
    ListsBacked (handedAt 2 r) ∧ Fresh (handedAt 2 r) 2 r ∧ ((handedAt 2 r).port 2).slot = .working (.handed r) ∧
      AllPass (acquireChecks (handedAt 2 r) 14 40#16 0#8) ∧
      ((((handedAt 2 r).enqueue 14 1 40#16 .exclusive).grantPass (some 14) 40#16).slot 14 1).isWaiting = true :=
  ⟨handed_backed _ _, fresh_of (by decide +kernel), rfl, allPass_of (acquire_decided _ _ _ _) (by decide +kernel),
    by decide +kernel⟩

theorem witness_AcquireGrantsAtMostItsOwnEntry :
    (ListsAgree world ∧ New world 2 ⟨head 14, .acquire 70#16 0#8 0#16⟩ ∧ AllPass (acquireChecks world 14 70#16 0#8) ∧
      namesMode 0#8 .exclusive ∧ world.find 70#16 = some (plainRecord 70#16 15 8 5#16 [] []) ∧
      GrantedAtOnce world 14 (plainRecord 70#16 15 8 5#16 [] []) .exclusive) ∧
    New world 2 ⟨head 14, .acquire 40#16 1#8 5#16⟩ ∧ AllPass (acquireChecks world 14 40#16 1#8) ∧
      world.find 40#16 = some (plainRecord 40#16 4 2 5#16 [⟨5, 0, .shared, 4#32⟩] [⟨3, 3, .exclusive, 5⟩]) ∧
      (plainRecord 40#16 4 2 5#16 [⟨5, 0, .shared, 4#32⟩] [⟨3, 3, .exclusive, 5⟩]).compatible .shared = true ∧
      ¬ GrantedAtOnce world 14 (plainRecord 40#16 4 2 5#16 [⟨5, 0, .shared, 4#32⟩] [⟨3, 3, .exclusive, 5⟩]) .shared := by
  refine ⟨⟨world_listsAgree, new_of (by decide +kernel), allPass_of (acquire_decided _ _ _ _) (by decide +kernel),
    .inl ⟨rfl, rfl⟩, by decide +kernel, ?_⟩, new_of (by decide +kernel),
    allPass_of (acquire_decided _ _ _ _) (by decide +kernel), by decide +kernel, by decide +kernel, ?_⟩
  all_goals unfold GrantedAtOnce; decide +kernel

theorem witness_FailedTryLeavesNoTrace :
    (ListsAgree world ∧ world.evalRecall 40#16 = world ∧ New world 2 ⟨head 14, .acquire 40#16 0#8 0#16⟩ ∧
      AllPass (acquireChecks world 14 40#16 0#8) ∧ namesMode 0#8 .exclusive ∧
      ∃ rec, world.find 40#16 = some rec ∧ ¬ GrantedAtOnce world 14 rec .exclusive) ∧
    ListsAgree suspectWorld ∧ suspectWorld.evalRecall 40#16 = suspectWorld ∧
      Fresh suspectWorld 3 suspectWait ∧ (suspectWorld.port 3).slot = .working (.screened suspectWait .fresh) ∧
      AllPass (acquireChecks suspectWorld 9 40#16 0#8) ∧ (suspectWorld.client 9).state = .suspect := by
  refine ⟨⟨world_listsAgree, by decide +kernel, new_of (by decide +kernel),
    allPass_of (acquire_decided _ _ _ _) (by decide +kernel), .inl ⟨rfl, rfl⟩, _, rfl, ?_⟩, screened_agree _,
    by decide +kernel, fresh_of (by decide +kernel), rfl, allPass_of (acquire_decided _ _ _ _) (by decide +kernel), rfl⟩
  unfold GrantedAtOnce; decide +kernel

theorem witness_CompatibilityTest :
    ((plainRecord 1#16 0 2 0#16 [⟨1, 1, .shared, 1#32⟩] []).holders =
        (plainRecord 2#16 9 2 7#16 [⟨1, 1, .shared, 1#32⟩] [⟨2, 0, .shared, 3⟩]).holders ∧
      (plainRecord 1#16 0 2 0#16 [⟨1, 1, .shared, 1#32⟩] []).shareLimit =
        (plainRecord 2#16 9 2 7#16 [⟨1, 1, .shared, 1#32⟩] [⟨2, 0, .shared, 3⟩]).shareLimit) ∧
    (([] : List Holder).Sublist [⟨1, 1, .shared, 1#32⟩] ∧ 2 ≤ 8 ∧
      (plainRecord 1#16 0 2 0#16 [⟨1, 1, .shared, 1#32⟩] []).compatible .shared = true) ∧
    (plainRecord 1#16 0 1 0#16 [] []).shareLimit = 1 ∧
    New world 2 ⟨head 14, .acquire 10#16 1#8 0#16⟩ ∧
      world.find 10#16 = some (plainRecord 10#16 1 1 0#16 [⟨3, 0, .exclusive, 1#32⟩] [⟨10, 0, .exclusive, 6⟩]) :=
  ⟨⟨rfl, rfl⟩, ⟨List.nil_sublist _, by decide, by decide⟩, rfl, new_of (by decide +kernel), by decide +kernel⟩

theorem witness_InsertionByPriority :
    ∃ r, world.find 10#16 = some r ∧ QueueOrdered r ∧ (world.client 10).priority = 6 ∧ r.waiters.length = 1 :=
  ⟨_, rfl, by unfold QueueOrdered; decide +kernel, rfl, rfl⟩

/-- The world after client 5's lease on resource 40 has left, before the grant pass. -/
def grantWorld : State := (world.leaveHolders 40#16 5 0).setSlot 5 0 .free

/-- The world after client 3's RECALLED lease on resource 20 has left, before the grant pass. -/
def headWorld : State := (world.leaveHolders 20#16 3 1).setSlot 3 1 .free

theorem witness_GrantPassGrantsAPrefix :
    (DirectoryLawful grantWorld ∧ ListsBacked grantWorld ∧
      ∃ r, grantWorld.find 40#16 = some r ∧ r.waiters.length = 1 ∧
        ((grantWorld.grantPass none 40#16).slot 3 3).leased = true) ∧
    DirectoryLawful headWorld ∧ ListsBacked headWorld ∧
      ∃ r, headWorld.find 20#16 = some r ∧ ((headWorld.grantPass (some 0) 20#16).slot 0 0).leased = true := by
  refine ⟨⟨?_, ?_, _, rfl, rfl, by decide +kernel⟩, ?_, ?_, _, rfl, by decide +kernel⟩
  · unfold DirectoryLawful FieldsLawful HoldersLawful QueueOrdered; decide +kernel
  · unfold ListsBacked; decide +kernel
  · unfold DirectoryLawful FieldsLawful HoldersLawful QueueOrdered; decide +kernel
  · unfold ListsBacked; decide +kernel

theorem witness_CancelBySlotState :
    (New world 1 ⟨head 3, .cancel 8#8⟩ ∧ 7 < (8#8 : Byte).toNat) ∧
    (New world 1 ⟨head 3, .cancel 3#8⟩ ∧ (3#8 : Byte).toNat = (3 : SlotId).val ∧
      world.slot 3 3 = .waiting 40#16 .exclusive none) ∧
    (New world 1 ⟨head 3, .cancel 4#8⟩ ∧ (4#8 : Byte).toNat = (4 : SlotId).val ∧
      world.slot 3 4 = .ended 10#16 .shared (some 99#32) .expired) ∧
    New world 1 ⟨head 3, .cancel 7#8⟩ ∧ (7#8 : Byte).toNat = (7 : SlotId).val ∧ (world.slot 3 7).isWaiting = false ∧
      (world.slot 3 7).isEnded = false :=
  ⟨⟨new_of (by decide +kernel), by decide⟩, ⟨new_of (by decide +kernel), rfl, rfl⟩, ⟨new_of (by decide +kernel), rfl, rfl⟩,
    new_of (by decide +kernel), rfl, rfl, rfl⟩

/-- Client 3's RECALLED slot with its lease deadline reached. -/
def lateWorld : State := world.setSlot 3 1 (.recalled 20#16 .exclusive 2#32 ⟨500#40, true⟩ ⟨600#40, false⟩)

theorem witness_DeadlineEventsEndTheirSlots :
    world.slot 0 0 = .waiting 20#16 .exclusive (some ⟨300#40, true⟩) ∧
    (∀ n m v, world.slot 3 3 ≠ .waiting n m (some ⟨v, true⟩)) ∧
    world.slot 3 0 = .held 10#16 .exclusive 1#32 ⟨400#40, true⟩ ∧
    (∃ d, lateWorld.slot 3 1 = .recalled 20#16 .exclusive 2#32 ⟨500#40, true⟩ d) ∧
    ((∀ n m g v, world.slot 5 0 ≠ .held n m g ⟨v, true⟩) ∧ ∀ n m g v d, world.slot 5 0 ≠ .recalled n m g ⟨v, true⟩ d) ∧
    world.slot 3 1 = .recalled 20#16 .exclusive 2#32 ⟨600#40, false⟩ ⟨450#40, true⟩ ∧
    ∀ n m g l v, lateWorld.slot 3 1 ≠ .recalled n m g l ⟨v, true⟩ :=
  ⟨rfl, (fun _ _ _ h => by cases h), rfl, ⟨_, rfl⟩,
    ⟨(fun _ _ _ _ h => by cases h), (fun _ _ _ _ _ h => by cases h)⟩, rfl, fun _ _ _ _ _ h => by cases h⟩

/-! ### Witnesses: leases and recall -/

theorem witness_RenewalRewritesLeaseDeadlines :
    (New world 1 ⟨head 3, .renew 8#8⟩ ∧ 7 < (8#8 : Byte).toNat) ∧
    (New world 1 ⟨head 3, .renew 0#8⟩ ∧ (0#8 : Byte).toNat = (0 : SlotId).val ∧
      world.slot 3 0 = .held 10#16 .exclusive 1#32 ⟨400#40, true⟩ ∧ ∃ r, world.find 10#16 = some r) ∧
    (New world 1 ⟨head 3, .renew 1#8⟩ ∧ (1#8 : Byte).toNat = (1 : SlotId).val ∧
      world.slot 3 1 = .recalled 20#16 .exclusive 2#32 ⟨600#40, false⟩ ⟨450#40, true⟩ ∧
      ∃ r, world.find 20#16 = some r) ∧
    (New world 1 ⟨head 3, .renew 2#8⟩ ∧ (2#8 : Byte).toNat = (2 : SlotId).val ∧ (world.slot 3 2).isGating = true) ∧
    (New world 1 ⟨head 3, .renew 7#8⟩ ∧ (7#8 : Byte).toNat = (7 : SlotId).val ∧ (world.slot 3 7).holdingGen = none) ∧
    New world 1 ⟨head 3, .renewAll⟩ ∧ ∀ i n m g, (world.slot 3 i).holding = some (n, m, g) → world.find n ≠ none :=
  ⟨⟨new_of (by decide +kernel), by decide⟩, ⟨new_of (by decide +kernel), rfl, rfl, _, rfl⟩,
    ⟨new_of (by decide +kernel), rfl, rfl, _, rfl⟩, ⟨new_of (by decide +kernel), rfl, rfl⟩,
    ⟨new_of (by decide +kernel), rfl, rfl⟩, new_of (by decide +kernel), fun i n m g h e => by
      obtain ⟨r, hr, hn, -⟩ := (world_listed 3 i).2 (n, m, g) h
      have := List.find?_eq_none.1 e r hr
      simp [hn] at this⟩

theorem witness_ReleaseBySlotState :
    (New world 1 ⟨head 3, .release 8#8⟩ ∧ 7 < (8#8 : Byte).toNat) ∧
    (New world 1 ⟨head 3, .release 1#8⟩ ∧ (1#8 : Byte).toNat = (1 : SlotId).val ∧ (world.slot 3 1).leased = true ∧
      (world.slot 3 1).holding = some (20#16, .exclusive, 2#32)) ∧
    (New world 1 ⟨head 3, .release 2#8⟩ ∧ (2#8 : Byte).toNat = (2 : SlotId).val ∧
      world.slot 3 2 = .gating 30#16 .exclusive 3#32) ∧
    (New world 1 ⟨head 3, .release 4#8⟩ ∧ (4#8 : Byte).toNat = (4 : SlotId).val ∧
      world.slot 3 4 = .ended 10#16 .shared (some 99#32) .expired) ∧
    (New world 1 ⟨head 3, .release 7#8⟩ ∧ (7#8 : Byte).toNat = (7 : SlotId).val ∧ world.slot 3 7 = .free) ∧
    New world 1 ⟨head 3, .release 3#8⟩ ∧ (3#8 : Byte).toNat = (3 : SlotId).val ∧ (world.slot 3 3).isWaiting = true :=
  ⟨⟨new_of (by decide +kernel), by decide⟩, ⟨new_of (by decide +kernel), rfl, rfl, rfl⟩,
    ⟨new_of (by decide +kernel), rfl, rfl⟩, ⟨new_of (by decide +kernel), rfl, rfl⟩, ⟨new_of (by decide +kernel), rfl, rfl⟩,
    new_of (by decide +kernel), rfl, rfl⟩

theorem witness_RecallConditionClauses :
    ∃ r, world.find 20#16 = some r ∧ (⟨3, 1, .exclusive, 2#32⟩ : Holder) ∈ r.holders ∧
      RecallCondition world r ⟨3, 1, .exclusive, 2#32⟩ :=
  ⟨_, rfl, by decide, by decide, _, rfl, rfl, rfl, by decide, .inl rfl⟩

/-- Client 5 less urgent than the waiter of resource 40, before recall evaluation. -/
def recallWorld : State := world.setClient 5 { world.client 5 with priority := 6 }

/-- Resource 20 with recall grace 0, before recall evaluation. -/
def withdrawWorld : State := world.updateRecord 20#16 (fun r => { r with recallGrace := 0#16 })

theorem witness_RecallEvaluationDecidesEachHolder :
    (ListsBacked recallWorld ∧ DirectoryLawful recallWorld ∧
      ∃ r, recallWorld.find 40#16 = some r ∧ (⟨5, 0, .shared, 4#32⟩ : Holder) ∈ r.holders ∧
        recallWorld.slot 5 0 = .held 40#16 .shared 4#32 ⟨700#40, false⟩ ∧
        RecallCondition recallWorld r ⟨5, 0, .shared, 4#32⟩) ∧
    (ListsBacked withdrawWorld ∧ DirectoryLawful withdrawWorld ∧
      ∃ r, withdrawWorld.find 20#16 = some r ∧ (⟨3, 1, .exclusive, 2#32⟩ : Holder) ∈ r.holders ∧
        withdrawWorld.slot 3 1 = .recalled 20#16 .exclusive 2#32 ⟨600#40, false⟩ ⟨450#40, true⟩ ∧
        ¬ RecallCondition withdrawWorld r ⟨3, 1, .exclusive, 2#32⟩) ∧
    (∃ r, world.find 10#16 = some r ∧ (⟨3, 0, .exclusive, 1#32⟩ : Holder) ∈ r.holders ∧
      world.slot 3 0 = .held 10#16 .exclusive 1#32 ⟨400#40, true⟩ ∧ ¬ RecallCondition world r ⟨3, 0, .exclusive, 1#32⟩) ∧
    ∃ r, world.find 30#16 = some r ∧ (⟨3, 2, .exclusive, 3#32⟩ : Holder) ∈ r.holders ∧
      (world.slot 3 2).isGating = true := by
  refine ⟨⟨?_, world_directory, _, rfl, by decide, rfl, by decide, _, rfl, rfl, rfl, by decide, .inl rfl⟩,
    ⟨?_, ?_, _, rfl, by decide, rfl, fun h => h.1 rfl⟩, ⟨_, rfl, by decide, rfl, fun h => h.1 rfl⟩, _, rfl, by decide, rfl⟩
  · unfold ListsBacked; decide +kernel
  · unfold ListsBacked; decide +kernel
  · unfold DirectoryLawful FieldsLawful HoldersLawful QueueOrdered; decide +kernel

/-! ### Witnesses: gates, pins, change queues, reports -/

theorem witness_SettleEndConnectsOrFrees :
    ((world.channel 0).state = .settling 10 ∧ (world.channel 0).deadTime = some 1000#16 ∧
      10 + 989 < (1000#16 : Half).toNat ∧ (1000#16 : Half).toNat ≤ 10 + 990) ∧
    ((world.channel 2).state = .settling 20 ∧ (world.channel 2).deadTime = some 250#16 ∧
      (250#16 : Half).toNat ≤ 20 + 230 ∧ (world.channel 2).binding = none) ∧
    ((settlingWorld.channel 1).state = .settling 0 ∧ (settlingWorld.channel 1).deadTime = some 1#16 ∧
      (1#16 : Half).toNat ≤ 0 + 1 ∧ (settlingWorld.channel 1).binding = some 60#16 ∧
      ∃ r, settlingWorld.find 60#16 = some r ∧ r.holders = []) ∧
    ((world.channel 0).binding = some 30#16 ∧ (∃ r, world.find 30#16 = some r ∧
      r.holders = [] ++ ⟨3, 2, .exclusive, 3#32⟩ :: []) ∧ world.slot 3 2 = .gating 30#16 .exclusive 3#32) ∧
    (world.channel 1).isSettling = false :=
  ⟨⟨rfl, rfl, by decide, by decide⟩, ⟨rfl, rfl, by decide, rfl⟩, ⟨rfl, rfl, by decide, rfl, _, rfl, rfl⟩,
    ⟨rfl, ⟨_, rfl, rfl⟩, rfl⟩, rfl⟩

theorem witness_OutputPinsFollowTheTables :
    GateState.disconnected.enable = false ∧ (GateState.settling 999).enable = false := ⟨rfl, rfl⟩

theorem witness_PostingByEntry :
    ChangeQueuesLawful world ∧ (∀ e ∈ (world.client 3).queue, e.slot ≠ 7) ∧
    (⟨4, .urgent⟩ : Entry) ∈ (world.client 3).queue ∧ (⟨0, .ordinary⟩ : Entry) ∈ (world.client 3).queue :=
  ⟨world_queues, by decide +kernel, by decide +kernel, by decide +kernel⟩

/-- Client 3's change queue once the ENDED slot has been fetched. -/
def fetchedWorld : State := world.setSlot 3 4 .free |>.setQueue 3 [⟨1, .urgent⟩, ⟨0, .ordinary⟩]

theorem witness_FetchTakesTheHeadEntry :
    (New world 0 ⟨head 0, .fetch⟩ ∧ (world.client 0).queue = []) ∧
    (New world 1 ⟨head 3, .fetch⟩ ∧ (world.client 3).queue = ⟨4, .urgent⟩ :: [⟨1, .urgent⟩, ⟨0, .ordinary⟩] ∧
      (world.slot 3 4).isEnded = true ∧ ChangeQueuesLawful world ∧ ClosedAndMarked world) ∧
    New fetchedWorld 1 ⟨head 3, .fetch⟩ ∧ (fetchedWorld.client 3).queue = ⟨1, .urgent⟩ :: [⟨0, .ordinary⟩] ∧
      (fetchedWorld.slot 3 1).isEnded = false :=
  ⟨⟨new_of (by decide +kernel), rfl⟩, ⟨new_of (by decide +kernel), rfl, rfl, world_queues, world_marked⟩,
    new_of (by decide +kernel), rfl, rfl⟩

theorem witness_ReportsChangeNothing_slotRead :
    (New world 1 ⟨head 3, .slotRead 8#8⟩ ∧ 7 < (8#8 : Byte).toNat) ∧
    New world 1 ⟨head 3, .slotRead 7#8⟩ ∧ (7#8 : Byte).toNat = (7 : SlotId).val ∧
      (false = true ↔ ∃ e ∈ (world.client 3).queue, e.slot = 7) :=
  ⟨⟨new_of (by decide +kernel), by decide⟩, new_of (by decide +kernel), rfl, by decide +kernel⟩

theorem witness_ReportsChangeNothing_check :
    New world 2 ⟨head 5, .check 0#16 1#32⟩ ∧ (New world 2 ⟨head 5, .check 11#16 1#32⟩ ∧ world.find 11#16 = none) ∧
    (New world 2 ⟨head 5, .check 5#16 8#32⟩ ∧ ∃ r, world.find 5#16 = some r ∧ r ∈ world.records ∧
      (⟨14, 0, .shared, 8#32⟩ : Holder) ∈ r.holders ∧ (world.slot 14 0).leased = true ∧
      ∀ y ∈ r.holders, y.generation = 8#32 → y = ⟨14, 0, .shared, 8#32⟩) ∧
    (New world 2 ⟨head 5, .check 30#16 3#32⟩ ∧ ∃ r, world.find 30#16 = some r ∧
      ∀ x ∈ r.holders, x.generation = 3#32 → (world.slot x.client x.slot).leased = false) ∧
    ListsBacked world ∧ GenerationsDistinct world :=
  ⟨new_of (by decide +kernel), ⟨new_of (by decide +kernel), rfl⟩,
    ⟨new_of (by decide +kernel), _, rfl, by decide +kernel, by decide +kernel, rfl, by decide +kernel⟩,
    ⟨new_of (by decide +kernel), _, rfl, by decide +kernel⟩, world_backed, world_generations⟩

theorem witness_ReportsChangeNothing_query :
    New world 2 ⟨head 5, .query 0#16⟩ ∧ (New world 2 ⟨head 5, .query 11#16⟩ ∧ world.find 11#16 = none) ∧
    (New world 2 ⟨head 5, .query 10#16⟩ ∧ ∃ r, world.find 10#16 = some r ∧ r.gate = none) ∧
    New world 2 ⟨head 5, .query 60#16⟩ ∧ ∃ r, world.find 60#16 = some r ∧ r.gate = some 1 ∧
      (world.channel 1).deadTime = some 1#16 :=
  ⟨new_of (by decide +kernel), ⟨new_of (by decide +kernel), rfl⟩, ⟨new_of (by decide +kernel), _, rfl, rfl⟩,
    new_of (by decide +kernel), _, rfl, rfl, rfl⟩

theorem witness_DirectoryPagesTheNames :
    DirectoryLawful world ∧ New world 0 ⟨head 0, .directory 0#16⟩ ∧ New world 0 ⟨head 0, .directory 71#16⟩ :=
  ⟨world_directory, new_of (by decide +kernel), new_of (by decide +kernel)⟩

/-! ### Witnesses: administration -/

/-- A DEFINE that passes, its values at the ends of their ranges. -/
def goodDefine : DefineParams := ⟨0xFFFF#16, 15#8, 8#8, 1#16, 0#16, 0#8, 0xFF#8, 0#16⟩

/-- A DEFINE of a gated resource on channel 15 that passes. -/
def gatedDefine : DefineParams := ⟨1#16, 0#8, 1#8, 0xFFFF#16, 0xFFFF#16, 1#8, 15#8, 1000#16⟩

/-- A directory with 128 records. -/
def fullDirectory : State :=
  { world with records := (List.range 128).map (fun n => plainRecord (BitVec.ofNat 16 (n + 1)) 0 1 0#16 [] []) }

theorem witness_DefineCreatesTheRecord_refused :
    (New world 2 ⟨head 5, .define goodDefine⟩ ∧ FirstFailing (defineChecks world 5 goodDefine) .notAdmin) ∧
    (New world 0 ⟨head 0, .define { goodDefine with shareLimit := 9#8 }⟩ ∧
      FirstFailing (defineChecks world 0 { goodDefine with shareLimit := 9#8 }) .badParam) ∧
    (New world 0 ⟨head 0, .define { gatedDefine with shareLimit := 2#8 }⟩ ∧
      FirstFailing (defineChecks world 0 { gatedDefine with shareLimit := 2#8 }) .badParam) ∧
    (New world 0 ⟨head 0, .define { goodDefine with name := 10#16 }⟩ ∧
      FirstFailing (defineChecks world 0 { goodDefine with name := 10#16 }) .duplicate) ∧
    (New fullDirectory 0 ⟨head 0, .define goodDefine⟩ ∧
      FirstFailing (defineChecks fullDirectory 0 goodDefine) .dirFull) ∧
    (New world 0 ⟨head 0, .define { gatedDefine with gateChannel := 1#8 }⟩ ∧
      FirstFailing (defineChecks world 0 { gatedDefine with gateChannel := 1#8 }) .channelBusy) ∧
    New world 0 ⟨head 0, .define { gatedDefine with gateChannel := 2#8 }⟩ ∧
      FirstFailing (defineChecks world 0 { gatedDefine with gateChannel := 2#8 }) .channelBusy :=
  ⟨⟨new_of (by decide +kernel), firstFailing_of (define_decided _ _ _) (by decide +kernel)⟩,
    ⟨new_of (by decide +kernel), firstFailing_of (define_decided _ _ _) (by decide +kernel)⟩,
    ⟨new_of (by decide +kernel), firstFailing_of (define_decided _ _ _) (by decide +kernel)⟩,
    ⟨new_of (by decide +kernel), firstFailing_of (define_decided _ _ _) (by decide +kernel)⟩,
    ⟨new_of (by decide +kernel), firstFailing_of (define_decided _ _ _) (by decide +kernel)⟩,
    ⟨new_of (by decide +kernel), firstFailing_of (define_decided _ _ _) (by decide +kernel)⟩,
    new_of (by decide +kernel), firstFailing_of (define_decided _ _ _) (by decide +kernel)⟩

theorem witness_DefineCreatesTheRecord :
    (New world 0 ⟨head 0, .define goodDefine⟩ ∧ DirectoryLawful world ∧ AllPass (defineChecks world 0 goodDefine) ∧
      goodDefine.gatePresent = 0#8) ∧
    New world 0 ⟨head 0, .define gatedDefine⟩ ∧ AllPass (defineChecks world 0 gatedDefine) ∧
      gatedDefine.gatePresent = 1#8 ∧ gatedDefine.gateChannel.toNat = (15 : ChannelId).val :=
  ⟨⟨new_of (by decide +kernel), world_directory, allPass_of (define_decided _ _ _) (by decide +kernel), rfl⟩,
    new_of (by decide +kernel), allPass_of (define_decided _ _ _) (by decide +kernel), rfl, rfl⟩

/-- An AMEND of resource 70 that changes its rank. -/
def goodAmend : AmendParams := ⟨70#16, 1#16, 0#16, 1#8, 0#8⟩

theorem witness_AmendWritesFourValues :
    (New world 2 ⟨head 5, .amend goodAmend⟩ ∧ FirstFailing (amendChecks world 5 goodAmend) .notAdmin) ∧
    (New world 0 ⟨head 0, .amend { goodAmend with rank := 16#8 }⟩ ∧
      FirstFailing (amendChecks world 0 { goodAmend with rank := 16#8 }) .badParam) ∧
    (New world 0 ⟨head 0, .amend { goodAmend with name := 71#16 }⟩ ∧
      FirstFailing (amendChecks world 0 { goodAmend with name := 71#16 }) .noResource) ∧
    (New world 0 ⟨head 0, .amend ⟨30#16, 1#16, 0#16, 2#8, 3#8⟩⟩ ∧
      FirstFailing (amendChecks world 0 ⟨30#16, 1#16, 0#16, 2#8, 3#8⟩) .badParam) ∧
    (New world 0 ⟨head 0, .amend ⟨5#16, 1#16, 0#16, 1#8, 0#8⟩⟩ ∧
      FirstFailing (amendChecks world 0 ⟨5#16, 1#16, 0#16, 1#8, 0#8⟩) .badParam) ∧
    (New world 0 ⟨head 0, .amend ⟨40#16, 1#16, 0#16, 1#8, 5#8⟩⟩ ∧
      FirstFailing (amendChecks world 0 ⟨40#16, 1#16, 0#16, 1#8, 5#8⟩) .resourceBusy) ∧
    (New world 0 ⟨head 0, .amend ⟨40#16, 0xFFFF#16, 0xFFFF#16, 8#8, 4#8⟩⟩ ∧
      AllPass (amendChecks world 0 ⟨40#16, 0xFFFF#16, 0xFFFF#16, 8#8, 4#8⟩) ∧ (4#8 : Byte).toNat = (4 : Fin 16).val) ∧
    New world 0 ⟨head 0, .amend goodAmend⟩ ∧ AllPass (amendChecks world 0 goodAmend) ∧
      (0#8 : Byte).toNat = (0 : Fin 16).val ∧ ∃ r, world.find 70#16 = some r :=
  ⟨⟨new_of (by decide +kernel), firstFailing_of (amend_decided _ _ _) (by decide +kernel)⟩,
    ⟨new_of (by decide +kernel), firstFailing_of (amend_decided _ _ _) (by decide +kernel)⟩,
    ⟨new_of (by decide +kernel), firstFailing_of (amend_decided _ _ _) (by decide +kernel)⟩,
    ⟨new_of (by decide +kernel), firstFailing_of (amend_decided _ _ _) (by decide +kernel)⟩,
    ⟨new_of (by decide +kernel), firstFailing_of (amend_decided _ _ _) (by decide +kernel)⟩,
    ⟨new_of (by decide +kernel), firstFailing_of (amend_decided _ _ _) (by decide +kernel)⟩,
    ⟨new_of (by decide +kernel), allPass_of (amend_decided _ _ _) (by decide +kernel), rfl⟩,
    new_of (by decide +kernel), allPass_of (amend_decided _ _ _) (by decide +kernel), rfl, _, rfl⟩

theorem witness_RetireGracefulDrains :
    (New world 2 ⟨head 5, .retire 10#16 0#8⟩ ∧ FirstFailing (retireChecks world 5 10#16 0#8) .notAdmin) ∧
    (New world 0 ⟨head 0, .retire 10#16 2#8⟩ ∧ (2#8 : Byte) ≠ 1#8 ∧
      FirstFailing (retireChecks world 0 10#16 2#8) .badParam) ∧
    (New world 0 ⟨head 0, .retire 71#16 0#8⟩ ∧ FirstFailing (retireChecks world 0 71#16 0#8) .noResource) ∧
    (New world 0 ⟨head 0, .retire 50#16 0#8⟩ ∧ AllPass (retireChecks world 0 50#16 0#8) ∧
      ∃ r, world.find 50#16 = some r ∧ r.state = .draining) ∧
    (New world 0 ⟨head 0, .retire 70#16 0#8⟩ ∧ AllPass (retireChecks world 0 70#16 0#8) ∧
      ∃ r, world.find 70#16 = some r ∧ r.state = .active ∧ r.holders = []) ∧
    (New settlingWorld 0 ⟨head 0, .retire 60#16 0#8⟩ ∧ AllPass (retireChecks settlingWorld 0 60#16 0#8) ∧
      ∃ r, settlingWorld.find 60#16 = some r ∧ r.state = .active ∧ r.holders = [] ∧ r.gate = some 1) ∧
    New world 0 ⟨head 0, .retire 20#16 0#8⟩ ∧ AllPass (retireChecks world 0 20#16 0#8) ∧ ListsAgree world ∧
      ∃ r, world.find 20#16 = some r ∧ r.state = .active ∧ r.holders ≠ [] ∧ r.waiters.length = 1 :=
  ⟨⟨new_of (by decide +kernel), firstFailing_of (retire_decided _ _ _ _) (by decide +kernel)⟩,
    ⟨new_of (by decide +kernel), by decide, firstFailing_of (retire_decided _ _ _ _) (by decide +kernel)⟩,
    ⟨new_of (by decide +kernel), firstFailing_of (retire_decided _ _ _ _) (by decide +kernel)⟩,
    ⟨new_of (by decide +kernel), allPass_of (retire_decided _ _ _ _) (by decide +kernel), _, rfl, rfl⟩,
    ⟨new_of (by decide +kernel), allPass_of (retire_decided _ _ _ _) (by decide +kernel), _, rfl, rfl, rfl⟩,
    ⟨new_of (by decide +kernel), allPass_of (retire_decided _ _ _ _) (by decide +kernel), _, rfl, rfl, rfl, rfl⟩,
    new_of (by decide +kernel), allPass_of (retire_decided _ _ _ _) (by decide +kernel), world_listsAgree, _, rfl, rfl,
    by decide, rfl⟩

theorem witness_RetireImmediateEndsEverything :
    (New world 2 ⟨head 5, .retire 10#16 1#8⟩ ∧ FirstFailing (retireChecks world 5 10#16 1#8) .notAdmin) ∧
    (New world 0 ⟨head 0, .retire 60#16 1#8⟩ ∧ ListsAgree world ∧ AllPass (retireChecks world 0 60#16 1#8) ∧
      ∃ r, world.find 60#16 = some r ∧ r.gate = some 1 ∧ (world.channel 1).state = .connected 7 ∧
        ∃ x ∈ r.holders, (world.slot x.client x.slot).leased = true) ∧
    New world 0 ⟨head 0, .retire 40#16 1#8⟩ ∧ AllPass (retireChecks world 0 40#16 1#8) ∧
      ∃ r, world.find 40#16 = some r ∧ r.gate = none ∧ r.waiters.length = 1 :=
  ⟨⟨new_of (by decide +kernel), firstFailing_of (retire_decided _ _ _ _) (by decide +kernel)⟩,
    ⟨new_of (by decide +kernel), world_listsAgree, allPass_of (retire_decided _ _ _ _) (by decide +kernel), _, rfl, rfl, rfl,
      by decide +kernel⟩,
    new_of (by decide +kernel), allPass_of (retire_decided _ _ _ _) (by decide +kernel), _, rfl, rfl, rfl⟩

/-- Client 0, administrative, on port 0, and nothing else: the generation counter is still 0. -/
def adminWorld : State :=
  (State.reset.setClient 0 (someClient .opened 0 0 0 true [] [])).setPort 0 { resetPort with frame := some (begun .idleFill) }

theorem witness_SeedSetsTheCounter :
    (New world 2 ⟨head 5, .seed 6000#32⟩ ∧ FirstFailing (seedChecks world 5 6000#32) .notAdmin) ∧
    (New adminWorld 0 ⟨head 0, .seed 0#32⟩ ∧ FirstFailing (seedChecks adminWorld 0 0#32) .badParam) ∧
    (New world 0 ⟨head 0, .seed 7000#32⟩ ∧ FirstFailing (seedChecks world 0 7000#32) .badState) ∧
    New adminWorld 0 ⟨head 0, .seed 0xFFFFFFFF#32⟩ ∧ AllPass (seedChecks adminWorld 0 0xFFFFFFFF#32) ∧
      CounterLawful adminWorld :=
  ⟨⟨new_of (by decide +kernel), firstFailing_of (seed_decided _ _ _) (by decide +kernel)⟩,
    ⟨new_of (by decide +kernel), firstFailing_of (seed_decided _ _ _) (by decide +kernel)⟩,
    ⟨new_of (by decide +kernel), firstFailing_of (seed_decided _ _ _) (by decide +kernel)⟩,
    new_of (by decide +kernel), allPass_of (seed_decided _ _ _) (by decide +kernel),
    by unfold CounterLawful; decide +kernel⟩

/-! ### Witnesses: reset, the clock, the laws -/

theorem witness_ChipResetLeavesNothing : (after .chipReset world).inReset = true := rfl

theorem witness_LeaseClockCountsAndRaises :
    world.inReset = false ∧ (exec (.expiry 3 0) world = .next (after (.expiry 3 0) world) ∧
      Instr.expiry 3 0 ≠ .leaseClockTick ∧ Instr.expiry 3 0 ≠ .chipReset) ∧
    (exec .chipReset world = .next (after .chipReset world) ∧ Instr.chipReset ≠ .leaseClockTick) ∧
    (after .chipReset world).inReset = true :=
  ⟨rfl, ⟨rfl, by decide, by decide⟩, ⟨rfl, by decide⟩, rfl⟩

theorem witness_StepKeepsGenerationLaws :
    GenerationsDistinct (worldWith [.revocation 3 1]) ∧ CounterLawful (worldWith [.revocation 3 1]) ∧
    step (worldWith [.revocation 3 1]) = .next (after (.revocation 3 1) world) :=
  ⟨(lawful_pending world _ world_lawful).2.2.2.2.1, (lawful_pending world _ world_lawful).2.2.2.2.2.1, world_step _⟩

theorem witness_StepKeepsSlotsAndListsInAgreement :
    ListsAgree (worldWith [.close 1 (head 3) .atFrameEnd]) ∧ ScreenedLawful (worldWith [.close 1 (head 3) .atFrameEnd]) ∧
    step (worldWith [.close 1 (head 3) .atFrameEnd]) = .next (after (.close 1 (head 3) .atFrameEnd) world) :=
  ⟨(lawful_pending world _ world_lawful).1, world_screened, world_step _⟩

theorem witness_StepKeepsEveryLaw :
    Lawful (worldWith [.expiry 3 0]) ∧ step (worldWith [.expiry 3 0]) = .next (after (.expiry 3 0) world) :=
  ⟨lawful_pending world _ world_lawful, world_step _⟩

/-! ### The well-formedness check refuses

CLOSE has no payload, so a CLOSE of the right form is no UNKNOWN_KIND; a payload has at most 59 bytes; a BAD_FRAME has a bit
and fails R140; mode byte 1 is RETIRE_IMMEDIATE. -/

theorem test_wf_refuses_known_form : (Instr.unknownKind 0 ⟨0, 0#4, 1#8⟩ 0x11#8 []).wf = false := by decide

theorem test_wf_refuses_poll_as_unknown : (Instr.unknownKind 0 ⟨0, 0#4, 1#8⟩ 0x01#8 (List.replicate 59 0#8)).wf = false := by decide

theorem test_wf_refuses_long_payload : (Instr.unknownKind 0 ⟨0, 0#4, 1#8⟩ 0x99#8 (List.replicate 60 0#8)).wf = false := by decide

theorem test_wf_refuses_long_padding : (Instr.poll 0 ⟨⟨0, 0#4, 0#8⟩, List.replicate 60 0#8⟩).wf = false := by decide

theorem test_wf_refuses_good_as_bad : (Instr.badFrame ⟨0, bitsOf probeFrame⟩).wf = false := by decide +kernel

theorem test_wf_refuses_empty_as_bad : (Instr.badFrame ⟨0, []⟩).wf = false := by decide

theorem test_wf_refuses_immediate_mode : (Instr.retireGraceful 0 (head 0) 5#16 1#8 .later).wf = false := by decide

theorem test_wf_accepts :
    (Instr.unknownKind 0 ⟨0, 0#4, 1#8⟩ 0x11#8 [0#8]).wf = true ∧ longPoll.wf = true ∧ (Instr.badFrame ⟨0, [true]⟩).wf = true := by
  decide

/-! ### Bytes

The check of R165's nine characters and its PROBE; frames written out from Tables 11-1 to 11-4. -/

theorem test_crc_nine_characters :
    crc8 [0x31#8, 0x32#8, 0x33#8, 0x34#8, 0x35#8, 0x36#8, 0x37#8, 0x38#8, 0x39#8] = 0xF4#8 := by decide +kernel

theorem test_decode_probe : decodeFrame 4 .later (bitsOf probeFrame) = .probe 4 ⟨0, 0#4, 0#8⟩ := by decide +kernel

theorem test_decode_partial_byte :
    decodeFrame 4 .later (bitsOf probeFrame ++ [true, false, true]) =
      .badFrame ⟨4, bitsOf probeFrame ++ [true, false, true]⟩ := by decide +kernel

theorem test_decode_unclocked : decodeFrame 4 .later [] = .unclockedFrame 4 := by decide

/-- R138: the first bit of a byte is its most significant. -/
theorem test_receive_bits :
    receive [false, false, true, true, false, true, false, true, true, false] =
      { bytes := [0x35#8], count := 1, bits := [true, false] } := by decide +kernel

/-- R138: of 70 bytes the first 64 are kept and all are counted. -/
theorem test_receive_keeps_64 :
    (receive (bitsOf (List.replicate 70 0xA5#8))).bytes = List.replicate 64 0xA5#8 ∧
    (receive (bitsOf (List.replicate 70 0xA5#8))).count = 70 := by decide +kernel

/-- ACQUIRE by client 3 with header flags 0xA: name 0x0480, SHARED, limit 0x03E8. -/
theorem test_decode_acquire :
    let covered := [0x0A#8, 0xA3#8, 0x0C#8, 0x20#8, 0x04#8, 0x80#8, 0x01#8, 0x03#8, 0xE8#8]
    decodeFrame 4 .later (bitsOf (covered ++ [crc8 covered])) = .acquire 4 ⟨3, 0xA#4, 12#8⟩ 0x0480#16 1#8 1000#16 .later := by
  decide +kernel

theorem test_answer_bytes_of_a_count :
    (answerBytes shortAnswer).take 6 = [0x07#8, 0x00#8, 0x04#8, 0x24#8, 0x00#8, 0x02#8] ∧
    (answerBytes shortAnswer).length = 7 := by decide

/-! ### One command on a small state -/

/-- The status and payload of the answer that waits to be placed on a port. -/
def reply (s : State) (p : Port) : Option (Status × Payload) :=
  match (s.port p).slot with
  | .working (.done a) => some (a.status, a.payload)
  | _ => none

/-- Every port idle with a frame in progress. -/
def fresh : State := { State.reset with ports := Vector.replicate 8 { resetPort with frame := some (begun .idleFill) } }

/-- Section 12.1: client 0 is administrative on port 0, and the counter is 6000. -/
def bringUp : State :=
  { fresh.setClient 0 (someClient .opened 0 0 7 true [] []) with generation := 6000#32 }

/-- The configuration flash of Section 12.2 on channel 2, its holders and waiters as given. -/
def flash (hs : List Holder) (ws : List Waiter) : Record :=
  { name := 0x0D10#16, state := .active, rank := 10, shareLimit := 1, leaseTerm := 200#16, recallGrace := 100#16
    gate := some 2, holders := hs, waiters := ws }

/-- Section 12.2: client 4 on port 3 and client 1 on port 1, with the slots and change queues given. -/
def contention (now : Clock) (gen : Gen) (r : Record) (four one : List (SlotId × Slot)) (q : List Entry)
    (g : GateState) : State :=
  { ((bringUp.setClient 4 (someClient .opened 3 4 5 false four q)).setClient 1
      (someClient .opened 1 1 1 false one [])).setChannel 2
      { binding := some 0x0D10#16, deadTime := some 250#16, state := g } with
    clock := now, generation := gen, records := [r] }

/-- 12.2 before 30 000: nothing is held. -/
def before30000 : State := contention 30000#40 6000#32 (flash [] []) [] [] [] .disconnected

/-- 12.2 before 30 500: client 4 holds. -/
def before30500 : State :=
  contention 30500#40 6001#32 (flash [⟨4, 0, .exclusive, 6001#32⟩] [])
    [(0, .held 0x0D10#16 .exclusive 6001#32 ⟨32000#40, false⟩)] [] [] (.connected 4)

/-- 12.2 before 30 550: client 4 is recalled for client 1. The deadline given is the recall deadline. -/
def recalled (now : Clock) (d : Deadline) : State :=
  contention now 6001#32 (flash [⟨4, 0, .exclusive, 6001#32⟩] [⟨1, 0, .exclusive, 1⟩])
    [(0, .recalled 0x0D10#16 .exclusive 6001#32 ⟨32550#40, false⟩ d)]
    [(0, .waiting 0x0D10#16 .exclusive (some ⟨31500#40, false⟩))] [⟨0, .urgent⟩] (.connected 4)

/-- 12.2 after the revocation: client 1 is GATING. -/
def gating : State :=
  contention 30600#40 6002#32 (flash [⟨1, 0, .exclusive, 6002#32⟩] [])
    [(0, .ended 0x0D10#16 .exclusive (some 6001#32) .revoked)] [(0, .gating 0x0D10#16 .exclusive 6002#32)]
    [⟨0, .urgent⟩] (.settling 0)

theorem test_open_configures_the_client :
    let t := after (.openClient 0 ⟨0, 0#4, 1#8⟩ 0#8 7#8 true 0#6 .atFrameEnd) fresh
    reply t 0 = some (.ok, .count 0) ∧ (t.client 0).state = .opened ∧ (t.client 0).port = some 0 ∧
      (t.client 0).priority = 7 ∧ (t.client 0).admin = true := by decide +kernel

theorem test_open_admin_on_port_1_refused :
    reply (after (.openClient 1 ⟨2, 0#4, 1#8⟩ 0#8 7#8 true 0#6 .atFrameEnd) fresh) 1 = some (.notAdmin, .nothing) := by
  decide +kernel

/-- R133: a takeover whose sequence number follows the cache frees the slots; here the two that are not FREE. -/
theorem test_takeover_frees_slots :
    let s := contention 30600#40 6001#32 (flash [⟨4, 0, .exclusive, 6001#32⟩] [])
      [(0, .held 0x0D10#16 .exclusive 6001#32 ⟨32000#40, false⟩), (5, .ended 1#16 .shared none .timeout)] []
      [⟨5, .urgent⟩] (.connected 4)
    let t := after (.takeover 3 (head 4) 6#8 2#8 false 0#6 .atFrameEnd) s
    reply t 3 = some (.ok, .count 2) ∧ (t.client 4).branch = 6 ∧ (t.client 4).queue = [] ∧
      (t.channel 2).state = .settling 0 := by decide +kernel

theorem test_close_releases :
    let t := after (.close 3 (head 4) .atFrameEnd) before30500
    reply t 3 = some (.ok, .count 1) ∧ (t.client 4).state = .closed ∧ (t.client 4).port = some 3 ∧
      t.records = [flash [] []] := by decide +kernel

theorem test_seed_sets_zero_counter :
    let t := after (.seed 0 (head 0) 6000#32 .atFrameEnd) { bringUp with generation := 0#32 }
    reply t 0 = some (.ok, .nothing) ∧ t.generation = 6000#32 := by decide +kernel

theorem test_seed_refused_later :
    reply (after (.seed 0 (head 0) 7000#32 .atFrameEnd) bringUp) 0 = some (.badState, .nothing) := by decide +kernel

theorem test_define_gated_limit_2_refused :
    reply (after (.define 0 (head 0) ⟨0x0D10#16, 10#8, 2#8, 200#16, 100#16, 1#8, 2#8, 250#16⟩ .atFrameEnd) bringUp) 0 =
      some (.badParam, .nothing) := by decide +kernel

theorem test_define_binds_channel :
    let t := after (.define 0 (head 0) ⟨0x0D10#16, 10#8, 1#8, 200#16, 100#16, 1#8, 2#8, 250#16⟩ .atFrameEnd) bringUp
    reply t 0 = some (.ok, .nothing) ∧ t.records = [flash [] []] ∧
      t.channel 2 = { binding := some 0x0D10#16, deadTime := some 250#16, state := .disconnected } := by decide +kernel

theorem test_directory_first_page :
    let s := { bringUp with records := [plainRecord 0x0C30#16 6 1 0#16 [] [], flash [] [], plainRecord 0x0E20#16 12 3 0#16 [] []] }
    reply (after (.directory 0 (head 0) 0#16 .atFrameEnd) s) 0 =
      some (.ok, .page false [0x0C30#16, 0x0D10#16, 0x0E20#16]) := by decide +kernel

theorem test_acquire_granted :
    let t := after (.acquire 3 (head 4) 0x0D10#16 0#8 0#16 .atFrameEnd) before30000
    reply t 3 = some (.granted, .granted 0 6001#32 32000#40) ∧ (t.channel 2).state = .connected 4 ∧
      (t.client 4).queue = [] := by decide +kernel

theorem test_acquire_queued_recalls :
    let t := after (.acquire 1 (head 1) 0x0D10#16 0#8 1000#16 .atFrameEnd) before30500
    reply t 1 = some (.queued, .queued 0 1) ∧
      t.slot 1 0 = .waiting 0x0D10#16 .exclusive (some ⟨31500#40, false⟩) ∧
      t.slot 4 0 = .recalled 0x0D10#16 .exclusive 6001#32 ⟨32000#40, false⟩ ⟨30600#40, false⟩ ∧
      t.attention 3 = true := by decide +kernel

theorem test_renew_keeps_recall_deadline :
    let t := after (.renew 3 (head 4) 0#8 .atFrameEnd) (recalled 30550#40 ⟨30600#40, false⟩)
    reply t 3 = some (.ok, .renewed .recalled 32550#40) ∧
      t.slot 4 0 = .recalled 0x0D10#16 .exclusive 6001#32 ⟨32550#40, false⟩ ⟨30600#40, false⟩ := by decide +kernel

theorem test_revocation_starts_settle :
    let t := after (.revocation 4 0) (recalled 30600#40 ⟨30600#40, true⟩)
    t.slot 4 0 = .ended 0x0D10#16 .exclusive (some 6001#32) .revoked ∧ t.slot 1 0 = .gating 0x0D10#16 .exclusive 6002#32 ∧
      (t.channel 2).state = .settling 0 ∧ (t.client 1).queue = [] := by decide +kernel

/-- 12.2: a release at 30 580 takes the urgent entry out. -/
theorem test_release_lowers_attention :
    let t := after (.release 3 (head 4) 0#8 .atFrameEnd) (recalled 30580#40 ⟨30600#40, false⟩)
    reply t 3 = some (.ok, .nothing) ∧ t.attention 3 = false ∧ t.slot 1 0 = .gating 0x0D10#16 .exclusive 6002#32 := by
  decide +kernel

theorem test_check_stale_while_gating :
    reply (after (.check 1 (head 1) 0x0D10#16 6002#32 .atFrameEnd) gating) 1 = some (.stale, .nothing) := by decide +kernel

theorem test_settle_end_joins_branch :
    let t := after (.settleEnd 2 250) gating
    t.slot 1 0 = .held 0x0D10#16 .exclusive 6002#32 ⟨32600#40, false⟩ ∧ (t.channel 2).state = .connected 1 ∧
      (t.client 1).queue = [⟨0, .ordinary⟩] ∧ t.attention 1 = true := by decide +kernel

/-- R88, Table 6-1: removal of the record of a DISCONNECTED channel leaves its dead time. -/
theorem test_removal_keeps_dead_time :
    (after (.retireGraceful 0 (head 0) 0x0D10#16 0#8 .atFrameEnd) before30000).channel 2 =
      { binding := none, deadTime := some 250#16, state := .disconnected } := by decide +kernel

theorem test_settle_end_not_yet :
    ((after (.settleEnd 2 249) gating).channel 2).state = .settling 249 := by decide +kernel

theorem test_fetch_frees_ended_slot :
    let t := after (.fetch 3 (head 4) .atFrameEnd) gating
    reply t 3 = some (.ok, .fetched (viewOf 0 true (.ended 0x0D10#16 .exclusive (some 6001#32) .revoked)) 0) ∧
      t.slot 4 0 = .free ∧ t.attention 3 = false := by decide +kernel

theorem test_slotRead_bytes :
    (slotViewBytes (gating.viewSlot 1 0)).take 10 =
      [0#8, 2#8, 0#8, 0x0D#8, 0x10#8, 0#8, 0x00#8, 0x00#8, 0x17#8, 0x72#8] ∧
    reply (after (.slotRead 1 (head 1) 0#8 .atFrameEnd) gating) 1 = some (.ok, .slotView (gating.viewSlot 1 0)) := by
  decide +kernel

/-- A withdrawn wait withdraws the recall (R52, R80). -/
theorem test_cancel_withdraws_recall :
    let t := after (.cancel 1 (head 1) 0#8 .atFrameEnd) (recalled 30560#40 ⟨30600#40, false⟩)
    reply t 1 = some (.ok, .nothing) ∧ t.slot 1 0 = .free ∧
      t.slot 4 0 = .held 0x0D10#16 .exclusive 6001#32 ⟨32550#40, false⟩ := by decide +kernel

theorem test_renewAll_counts :
    reply (after (.renewAll 3 (head 4) .atFrameEnd) before30500) 3 = some (.ok, .count 1) ∧
    reply (after (.renewAll 1 (head 1) .atFrameEnd) gating) 1 = some (.ok, .count 0) := by decide +kernel

/-- Section 12.4 at 50 000: two holders, two waiters. -/
def shared124 : State :=
  { (((bringUp.setClient 2 (someClient .opened 2 2 6 false [(1, .held 0x0E20#16 .shared 6010#32 ⟨50800#40, false⟩)] [])).setClient 5
      (someClient .opened 5 5 4 false [(0, .held 0x0E20#16 .shared 6011#32 ⟨50900#40, false⟩)] [])).setClient 9
      (someClient .opened 6 6 2 false [(0, .waiting 0x0E20#16 .exclusive none)] [])).setClient 11
      (someClient .opened 7 7 4 false [(3, .waiting 0x0E20#16 .shared none)] []) with
    clock := 50000#40
    records := [plainRecord 0x0E20#16 12 3 0#16 [⟨2, 1, .shared, 6010#32⟩, ⟨5, 0, .shared, 6011#32⟩]
      [⟨9, 0, .exclusive, 2⟩, ⟨11, 3, .shared, 4⟩]] }

theorem test_retireGraceful_ends_waiters :
    let t := after (.retireGraceful 0 (head 0) 0x0E20#16 0#8 .atFrameEnd) shared124
    reply t 0 = some (.ok, .retired .draining 2) ∧ (t.client 9).queue = [⟨0, .urgent⟩] ∧
      t.slot 11 3 = .ended 0x0E20#16 .shared none .retired ∧ (t.slot 2 1).leased = true := by decide +kernel

theorem test_retireImmediate_removes :
    let t := after (.retireImmediate 0 (head 0) 0x0E20#16 .atFrameEnd) shared124
    reply t 0 = some (.ok, .retired .removed 4) ∧ t.records = [] ∧
      t.slot 2 1 = .ended 0x0E20#16 .shared (some 6010#32) .retired := by decide +kernel

theorem test_query_reports_holders :
    reply (after (.query 0 (head 0) 0x0E20#16 .atFrameEnd) shared124) 0 = some (.ok, .resourceView
      { name := 0x0E20#16, state := .active, rank := 12, shareLimit := 3, leaseTerm := 50#16, recallGrace := 0#16
        gate := none, holders := [⟨2, 1, .shared, 6010#32, .held⟩, ⟨5, 0, .shared, 6011#32, .held⟩], waiterCount := 2
        headPriority := some 2 }) := by decide +kernel

/-- R11: a raised share limit lets a SHARED head in; here the head is EXCLUSIVE and nothing is granted. -/
theorem test_amend_exclusive_head_stays :
    let t := after (.amend 0 (head 0) ⟨0x0E20#16, 100#16, 0#16, 8#8, 12#8⟩ .atFrameEnd) shared124
    reply t 0 = some (.ok, .nothing) ∧ (t.slot 9 0).isWaiting = true ∧ t.generation = 6000#32 := by decide +kernel

theorem test_amend_rank_busy :
    reply (after (.amend 0 (head 0) ⟨0x0E20#16, 100#16, 0#16, 3#8, 13#8⟩ .atFrameEnd) shared124) 0 =
      some (.resourceBusy, .nothing) := by decide +kernel

/-- Section 12.5: client 6 on port 2 holds resource 0x0C30 and waits for the flash that client 4 holds, recalled. -/
def fault125 (now : Clock) (lease : Deadline) : State :=
  { (((contention now 6021#32 (flash [⟨4, 0, .exclusive, 6021#32⟩] [⟨6, 1, .exclusive, 3⟩])
      [(0, .recalled 0x0D10#16 .exclusive 6021#32 ⟨71500#40, false⟩ ⟨70020#40, false⟩)] [] [⟨0, .urgent⟩]
      (.connected 4)).setClient 6 (someClient .opened 2 2 3 false
        [(0, .held 0x0C30#16 .exclusive 6020#32 lease), (1, .waiting 0x0D10#16 .exclusive none)] [])).setClient 8
      (someClient .opened 5 5 4 false [(0, .waiting 0x0C30#16 .exclusive none)] [])).setPort 2
      { resetPort with link := .faulted, score := 32, faultReport := true } with
    records := [plainRecord 0x0C30#16 6 1 0#16 [⟨6, 0, .exclusive, 6020#32⟩] [⟨8, 0, .exclusive, 4⟩],
      flash [⟨4, 0, .exclusive, 6021#32⟩] [⟨6, 1, .exclusive, 3⟩]] }

theorem test_portFault_ends_wait :
    let t := after (.portFault 2) (fault125 70000#40 ⟨70300#40, false⟩)
    t.slot 6 1 = .ended 0x0D10#16 .exclusive none .link ∧ (t.client 6).state = .suspect ∧
      t.slot 4 0 = .held 0x0D10#16 .exclusive 6021#32 ⟨71500#40, false⟩ ∧ t.attention 2 = true := by decide +kernel

theorem test_expiry_grants_next :
    let t := after (.expiry 6 0) (fault125 70300#40 ⟨70300#40, true⟩)
    t.slot 6 0 = .ended 0x0C30#16 .exclusive (some 6020#32) .expired ∧
      t.slot 8 0 = .held 0x0C30#16 .exclusive 6022#32 ⟨70800#40, false⟩ ∧ (t.client 8).queue = [⟨0, .ordinary⟩] := by
  decide +kernel

/-- R53. -/
theorem test_waitDeadline_times_out :
    let s := (recalled 31500#40 ⟨30600#40, false⟩).setSlot 1 0 (.waiting 0x0D10#16 .exclusive (some ⟨31500#40, true⟩))
    let t := after (.waitDeadline 1 0) s
    t.slot 1 0 = .ended 0x0D10#16 .exclusive none .timeout ∧ t.attention 1 = true ∧
      t.slot 4 0 = .held 0x0D10#16 .exclusive 6001#32 ⟨32550#40, false⟩ := by decide +kernel

/-- Section 10.7, frame J: a READY answer is discarded and one client returns to OPEN. -/
theorem test_linkReset_counts_clients :
    let s := (fresh.setClient 3 (someClient .suspect 4 0 7 false [] [])).setPort 4
      { resetPort with link := .faulted, score := 32, slot := .ready shortAnswer, frame := some (begun .faultedFill) }
    let t := after (.linkReset 4 ⟨0, 0#4, 1#8⟩) s
    (t.port 4).slot = .ready { status := .ok, seqEcho := 1#8, kindEcho := 3#8, replay := false, payload := .count 1 } ∧
      (t.port 4).link = .up ∧ (t.port 4).score = 0 ∧ (t.client 3).state = .opened := by decide +kernel

/-- Section 10.7, frame H. -/
theorem test_badFrame_faults_at_32 :
    let t := after (.badFrame ⟨2, [true]⟩) world
    (t.port 2).link = .faulted ∧ (t.port 2).score = 32 ∧ (t.port 2).badFrames = 1#16 ∧ (t.client 5).state = .opened := by
  decide +kernel

/-- R155: a counter at 65535 stays there. -/
theorem test_badFrame_counter_saturates : ((after (.badFrame ⟨6, [true]⟩) world).port 6).badFrames = 65535#16 := by decide +kernel

/-- R152: the 7-byte answer needs a POLL of 7 bytes. -/
theorem test_poll_consumes_carried : ((after (.poll 5 ⟨⟨0, 0#4, 4#8⟩, [0#8, 0#8]⟩) world).port 5).slot = .empty := by decide +kernel

theorem test_poll_too_short :
    ((after (.poll 5 ⟨⟨0, 0#4, 4#8⟩, [0#8]⟩) world).port 5).slot = .ready shortAnswer ∧ ((after (.poll 5 ⟨⟨0, 0#4, 4#8⟩, [0#8]⟩) world).port 5).overruns = 65535#16 := by
  decide +kernel

/-- R153: the score reported is the one after the PROBE's own frame, 23 less 1; ports 3, 4 and 7 are FAULTED. -/
theorem test_probe_bytes :
    (match reply (after (.probe 1 ⟨0, 0#4, 9#8⟩) world) 1 with
      | some (.ok, pl) => payloadBytes pl
      | _ => []) =
      [0x0C#8, 0x4D#8, 0x08#8, 0x16#8, 0x01#8, 0#8, 0#8, 0#8, 1#8, 0xF4#8, 0x98#8, 22#8, 0#8, 0#8, 0#8, 0#8] := by
  decide +kernel

theorem test_unknownKind_answered :
    reply (after (.unknownKind 0 ⟨0, 0#4, 7#8⟩ 0x99#8 [1#8, 2#8, 3#8]) world) 0 = some (.badRequest, .nothing) := by decide +kernel

theorem test_unknownKind_dropped_in_faulted :
    after (.unknownKind 3 ⟨0, 0#4, 7#8⟩ 0x99#8 [1#8, 2#8, 3#8]) world = world.setPort 3 { world.port 3 with frame := none } := by decide +kernel

theorem test_answerPlaced_ready : ((after (.answerPlaced 6) world).port 6).slot = .ready shortAnswer := by decide +kernel

theorem test_frameStart_fill :
    ((after (.frameStart 6) (idleAt 6)).port 6).frame = some (begun .workingFill) ∧
    ((after (.frameStart 3) (idleAt 3)).port 3).frame = some (begun .faultedFill) := by decide +kernel

theorem test_unclockedFrame_discards :
    ((after (.unclockedFrame 5) world).port 5).frame = none ∧
    ((after (.unclockedFrame 5) world).port 5).slot = .ready shortAnswer := by decide +kernel

theorem test_chipReset_then_end :
    after .endOfReset (after .chipReset world) = State.reset := by decide +kernel

theorem test_clock_wraps :
    (after .leaseClockTick { fresh with clock := 0xFFFFFFFFFF#40 }).clock = 0#40 := by decide +kernel

theorem test_clock_raises_deadline :
    (after .leaseClockTick { before30500 with clock := 31999#40 }).slot 4 0 =
      .held 0x0D10#16 .exclusive 6001#32 ⟨32000#40, true⟩ := by decide +kernel

/-! R145 and R135: a request handed over before its port's fault is screened before the fault is taken. -/

/-- Client 3, open on port 1, asked for on port 4 by an OPEN handed over before the fault of port 4. -/
def foreignOpen : State := handedAt 4 (openingRequest false (head 3) 0#8 0#8 false 0#6)

/-- R126: the OPEN is IN_USE, also when its client is closed between the taking of the fault and the placing. -/
theorem test_screened_before_fault :
    let t := after (.answerPlaced 4) (after (.close 1 (head 3) .atFrameEnd) (after (.portFault 4) foreignOpen))
    (match (t.port 4).slot with
      | .ready a => a.status == .inUse
      | _ => false) = true ∧ (t.client 3).state = .closed := by decide +kernel

/-- R135: the OPEN of client 12 screened on port 7 opens the client before another port's OPEN of it is screened. -/
theorem test_screened_open_stands_first :
    let t := after (.openClient 0 ⟨12, 0#4, 3#8⟩ 0#8 0#8 false 0#6 .atFrameEnd) world
    reply t 0 = some (.inUse, .nothing) ∧ (t.client 12).port = some 7 ∧ (t.client 12).state = .suspect := by decide +kernel

end Sys2Proof.Tests
end

section
/-! PROOFS. The resource directory: DEFINE (R6 to R8) and AMEND (R9 to R11). -/

namespace Sys2Proof.Machine

open Sys2Proof.Claims Sys2Proof.Safety

/-! ### A request classed new, at the end of its frame -/

/-- A taken request's frame is in progress on a port in UP, whose response slot lets it in (R143). -/
theorem taken_admits {s : State} {p : Port} {len : Nat} (h : Taken s p len) :
    ∃ f, (s.port p).frame = some f ∧ (s.port p).link = .up ∧ (s.port p).admits f.outgoing len = true := by
  obtain ⟨hl, ⟨he, hf⟩ | ⟨a, f, hr, hf, ho, hle⟩⟩ := h
  · obtain ⟨f, hf⟩ := Option.ne_none_iff_exists'.mp hf
    exact ⟨f, hf, hl, by simp [PortUnit.admits, he]⟩
  · exact ⟨f, hf, hl, by simpa [PortUnit.admits, hr, ho, Outgoing.carriedWhole] using hle⟩

/-- A request classed new that its port takes is completed in the step of its frame's end: its own carrying out, the cache write
and the answer, on a port unit that the carrying out has not changed. -/
theorem requestFrame_new {s t : State} {p : Port} {r : Request} {st : Status} {pl : Payload} (hn : New s p r)
    (ht : bodyKind r.body = .openClient → bodyTakeover r.body = true)
    (hc : carryNew p r.header.client r.body s = (t, st, pl)) :
    s.requestFrame p r .atFrameEnd = completed t p r st pl := by
  obtain ⟨htaken, hopen, hport, k, hk, hseq⟩ := hn
  obtain ⟨f, hf, hl, ha⟩ := taken_admits htaken
  have hs := screen_successor p (s.client r.header.client) r k hopen hport hk hseq ht
  have hu : t.port p = s.port p := by
    have h := (carryNew_tablesOnly s p r.header.client r.body).ports
    rw [hc] at h
    exact congrArg (fun v : Vector PortUnit 8 => v[p]) h
  rw [s.requestFrame_fresh p r f hf hl ha hs t st pl hc, ← hu]
  rfl

/-- The command DEFINE, where the carrying out is known. -/
theorem exec_define_new {s t : State} {p : Port} {h : Header} {d : DefineParams} {st : Status}
    (hn : New s p ⟨h, .define d⟩) (hc : carryDefine h.client d s = (t, st, .nothing)) :
    exec (.define p h d .atFrameEnd) s = .next (completed t p ⟨h, .define d⟩ st .nothing) :=
  congrArg _ (requestFrame_new hn nofun hc)

/-- The command AMEND, where the carrying out is known. -/
theorem exec_amend_new {s t : State} {p : Port} {h : Header} {a : AmendParams} {st : Status}
    (hn : New s p ⟨h, .amend a⟩) (hc : carryAmend h.client a s = (t, st, .nothing)) :
    exec (.amend p h a .atFrameEnd) s = .next (completed t p ⟨h, .amend a⟩ st .nothing) :=
  congrArg _ (requestFrame_new hn nofun hc)

/-! ### Operands -/

/-- A byte above 15 is refused (R7, R9). -/
theorem below16_eq_none_iff (b : Byte) : below16 b = none ↔ 15 < b.toNat := by
  unfold below16
  split <;> simp <;> omega

/-- Any other byte is taken as it stands. -/
theorem below16_eq_some_iff (b : Byte) (x : Fin 16) : below16 b = some x ↔ b.toNat = x.val := by
  unfold below16
  split
  · simp [Fin.ext_iff]
  · simp; omega

/-- A share limit of 0 or above 8 is refused (Tables 1-1 and 1-2). -/
theorem shareLimitOk_eq_false_iff (b : Byte) : shareLimitOk b = false ↔ b = 0#8 ∨ 8 < b.toNat := by
  have h0 : b = 0#8 ↔ b.toNat = 0 := BitVec.toNat_inj.symm
  simp only [shareLimitOk, Bool.and_eq_false_iff, decide_eq_false_iff_not, h0]
  omega

/-- The gate-present byte is no, yes, or a byte above 1 that R7 refuses. -/
theorem gatePresent_cases (b : Byte) : b = 0#8 ∨ b = 1#8 ∨ (b ≠ 0#8 ∧ b ≠ 1#8 ∧ 1 < b.toNat) := by
  have h0 : b = 0#8 ↔ b.toNat = 0 := BitVec.toNat_inj.symm
  have h1 : b = 1#8 ↔ b.toNat = 1 := BitVec.toNat_inj.symm
  rw [Ne, Ne, h0, h1]
  omega

/-- A DEFINE without a gate asks for none, whatever its channel and dead time (R7). -/
theorem gateRequested_no {d : DefineParams} (h : d.gatePresent = 0#8) : gateRequested d = some none := if_pos h

/-- The gate that a DEFINE with a gate is granted is its channel with its dead time (R7). -/
theorem gateRequested_yes {d : DefineParams} {g : ChannelId} {gate : Option (ChannelId × Half)}
    (ha : gateRequested d = some gate) (h : d.gatePresent = 1#8) (hg : d.gateChannel.toNat = g.val) :
    gate = some (g, d.deadTime) := by
  have hb := (below16_eq_some_iff _ g).mpr hg
  unfold gateRequested at ha
  rw [if_neg (by simp [h]), if_pos h, hb] at ha
  exact (Option.some.inj (Option.ite_none_right_eq_some.mp ha).2).symm

/-- The part of check 1 of R7 about the gate, for a share limit other than 0. -/
theorem gateRequested_eq_none_iff (d : DefineParams) (hs : d.shareLimit ≠ 0#8) :
    gateRequested d = none ↔ 1 < d.gatePresent.toNat ∨
      (d.gatePresent = 1#8 ∧ (15 < d.gateChannel.toNat ∨ d.deadTime = 0#16 ∨ 1000 < d.deadTime.toNat ∨
        1 < d.shareLimit.toNat)) := by
  have hd0 : d.deadTime = 0#16 ↔ d.deadTime.toNat = 0 := BitVec.toNat_inj.symm
  have hs0 : d.shareLimit.toNat ≠ 0 := fun e => hs (BitVec.eq_of_toNat_eq e)
  have hs1 : d.shareLimit = 1#8 ↔ d.shareLimit.toNat = 1 := BitVec.toNat_inj.symm
  rcases gatePresent_cases d.gatePresent with h | h | ⟨h0, h1, h2⟩
  · simp [gateRequested, h]
  · cases hb : below16 d.gateChannel with
    | none =>
      have hc := (below16_eq_none_iff _).mp hb
      simp [gateRequested, h, hb, hc]
    | some g =>
      have hc := (below16_eq_some_iff _ g).mp hb
      have hle : d.gateChannel.toNat ≤ 15 := hc ▸ Nat.le_of_lt_succ g.isLt
      have hbad : ¬ (1 ≤ d.deadTime.toNat ∧ d.deadTime.toNat ≤ 1000 ∧ d.shareLimit = 1#8) ↔
          15 < d.gateChannel.toNat ∨ d.deadTime = 0#16 ∨ 1000 < d.deadTime.toNat ∨ 1 < d.shareLimit.toNat := by
        rw [hd0, hs1]
        omega
      rw [← hbad]
      simp [gateRequested, h, hb]
  · simp [gateRequested, h0, h1, h2]

/-- Check 1 of R7 fails by the plain parameters, by the rank or by the gate. -/
theorem defineAccepted_eq_none_of_parts (d : DefineParams) :
    defineAccepted d = none ↔ (d.name = 0#16 ∨ shareLimitOk d.shareLimit = false ∨ d.leaseTerm = 0#16) ∨
      below16 d.rank = none ∨ gateRequested d = none := by
  unfold defineAccepted
  split
  · next h => simp only [h, true_or]
  · next h => cases below16 d.rank <;> cases gateRequested d <;> simp [h]

/-- Check 1 of R7. -/
theorem defineAccepted_eq_none_iff (d : DefineParams) :
    defineAccepted d = none ↔ d.name = 0#16 ∨ 15 < d.rank.toNat ∨ d.shareLimit = 0#8 ∨ 8 < d.shareLimit.toNat ∨
      d.leaseTerm = 0#16 ∨ 1 < d.gatePresent.toNat ∨
      (d.gatePresent = 1#8 ∧ (15 < d.gateChannel.toNat ∨ d.deadTime = 0#16 ∨ 1000 < d.deadTime.toNat ∨
        1 < d.shareLimit.toNat)) := by
  rw [defineAccepted_eq_none_of_parts, shareLimitOk_eq_false_iff, below16_eq_none_iff]
  by_cases hs : d.shareLimit = 0#8
  · simp only [hs, true_or, or_true]
  · rw [gateRequested_eq_none_iff d hs]
    exact iff_of_eq (by ac_rfl)

/-- What check 1 of R7 accepts: the rank of the request and the gate it asks for. -/
theorem defineAccepted_eq_some {d : DefineParams} {rank : Fin 16} {gate : Option (ChannelId × Half)}
    (h : defineAccepted d = some (rank, gate)) : d.rank.toNat = rank.val ∧ gateRequested d = some gate := by
  unfold defineAccepted at h
  split at h
  · cases h
  · split at h
    · next hr hg =>
      cases h
      exact ⟨(below16_eq_some_iff _ _).mp hr, hg⟩
    · cases h

/-- Check 1 of R9. -/
theorem amendAccepted_eq_none_iff (a : AmendParams) :
    amendAccepted a = none ↔
      a.name = 0#16 ∨ a.leaseTerm = 0#16 ∨ a.shareLimit = 0#8 ∨ 8 < a.shareLimit.toNat ∨ 15 < a.rank.toNat := by
  have hl := shareLimitOk_eq_false_iff a.shareLimit
  have hr := below16_eq_none_iff a.rank
  unfold amendAccepted
  split
  · simp only [true_iff]
    tauto
  · rw [hr]
    tauto

/-- What check 1 of R9 accepts: the rank of the request. -/
theorem amendAccepted_eq_some {a : AmendParams} {rank : Fin 16} (h : amendAccepted a = some rank) :
    a.rank.toNat = rank.val := by
  unfold amendAccepted at h
  split at h
  · cases h
  · exact (below16_eq_some_iff _ _).mp h

/-! ### The directory's records -/

/-- A name that no record of an ascending list carries has one place in it, where any record of that name is inserted (R8). -/
theorem insertRecord_split (n : Name) (xs : List Record) (hs : xs.Pairwise (fun a b => a.name.toNat < b.name.toNat))
    (hn : ∀ x ∈ xs, x.name ≠ n) :
    ∃ pre post, xs = pre ++ post ∧ (∀ x ∈ pre, x.name.toNat < n.toNat) ∧ (∀ x ∈ post, n.toNat < x.name.toNat) ∧
      ∀ r : Record, r.name = n → insertRecord r xs = pre ++ r :: post := by
  induction xs with
  | nil => exact ⟨[], [], rfl, nofun, nofun, fun _ _ => rfl⟩
  | cons x xs ih =>
    obtain ⟨hx, hxs⟩ := List.pairwise_cons.mp hs
    by_cases hlt : x.name.toNat < n.toNat
    · obtain ⟨pre, post, rfl, hpre, hpost, hins⟩ := ih hxs fun y hy => hn y (List.mem_cons_of_mem _ hy)
      refine ⟨x :: pre, post, rfl, List.forall_mem_cons.mpr ⟨hlt, hpre⟩, hpost, ?_⟩
      rintro r rfl
      simp [insertRecord, hlt, hins r rfl]
    · have hgt : n.toNat < x.name.toNat := by
        have : n.toNat ≠ x.name.toNat := fun e => hn x List.mem_cons_self (BitVec.eq_of_toNat_eq e.symm)
        omega
      refine ⟨[], x :: xs, rfl, nofun, List.forall_mem_cons.mpr ⟨hgt, fun y hy => hgt.trans (hx y hy)⟩, ?_⟩
      rintro r rfl
      simp [insertRecord, hlt]

/-- The record found under a name carries it. -/
theorem State.find_name {s : State} {n : Name} {r : Record} (h : s.find n = some r) : r.name = n := by
  simpa using List.find?_some h

/-- No record of the directory carries a name that is not found (R4). -/
theorem State.name_ne_of_find_none {s : State} {n : Name} (h : s.find n = none) : ∀ r ∈ s.records, r.name ≠ n := by
  simpa [State.find] using h

/-- A record changed under its name, which it keeps: the name finds the changed record, and every other name finds what it
found before. -/
theorem State.find_updateRecord (s : State) (n m : Name) (f : Record → Record) (hf : ∀ r, (f r).name = r.name) :
    (s.updateRecord n f).find m = if m = n then (s.find n).map f else s.find m := by
  have hname (r : Record) : (if r.name = n then f r else r).name = r.name := by
    split <;> simp [hf]
  have hfind : (s.updateRecord n f).find m = (s.find m).map (fun r => if r.name = n then f r else r) := by
    simp [State.find, State.updateRecord, List.find?_map, hname]
  rw [hfind]
  cases h : s.find m with
  | none => split <;> simp_all
  | some r =>
    have := State.find_name h
    subst this
    split <;> simp_all

/-! ### DEFINE -/

/-- Check 4 of R7. -/
theorem Channel.busy_iff (x : Channel) : x.busy = true ↔ x.binding ≠ none ∨ x.state ≠ .disconnected := by
  simp [Channel.busy, Option.isSome_iff_ne_none]

/-- R7: a DEFINE is refused with the status of its first failing check, and changes nothing. -/
theorem carryDefine_refused {s : State} {c : ClientId} {d : DefineParams} {st : Status}
    (h : FirstFailing (defineChecks s c d) st) : carryDefine c d s = refusal s st := by
  unfold carryDefine
  rcases h with ⟨hadm, rfl⟩ | ⟨hadm, h⟩
  · exact if_pos hadm
  rw [if_neg hadm]
  rcases h with ⟨hpar, rfl⟩ | ⟨hpar, h⟩
  · rw [(defineAccepted_eq_none_iff d).mpr hpar]
  obtain ⟨⟨rank, gate⟩, hacc⟩ := Option.ne_none_iff_exists'.mp (mt (defineAccepted_eq_none_iff d).mp hpar)
  rw [hacc]
  dsimp only
  rcases h with ⟨hdup, rfl⟩ | ⟨hdup, h⟩
  · exact if_pos (Option.isSome_iff_ne_none.mpr hdup)
  rw [if_neg (mt Option.isSome_iff_ne_none.mp hdup)]
  rcases h with ⟨hfull, rfl⟩ | ⟨hfull, h⟩
  · exact if_pos hfull
  rw [if_neg (show ¬ s.records.length ≥ Config.directoryCapacity from hfull)]
  rcases h with ⟨⟨hyes, g, hg, hbusy⟩, rfl⟩ | ⟨-, h⟩
  · rw [gateRequested_yes (defineAccepted_eq_some hacc).2 hyes hg]
    exact if_pos ((Channel.busy_iff _).mpr hbusy)
  · exact h.elim

/-- R8: a DEFINE that passes checks 1 to 3 of R7 and asks for no gate inserts its record. -/
theorem carryDefine_plain {s : State} {c : ClientId} {d : DefineParams} {rank : Fin 16}
    (hadm : (s.client c).admin ≠ false) (hacc : defineAccepted d = some (rank, none)) (hnew : s.find d.name = none)
    (hroom : ¬ s.records.length ≥ Config.directoryCapacity) :
    carryDefine c d s = ({ s with records := insertRecord (definedRecord d rank none) s.records }, .ok, .nothing) := by
  unfold carryDefine
  rw [if_neg hadm, hacc]
  dsimp only
  rw [if_neg (by simp [hnew]), if_neg hroom]
  rfl

/-- R8: a DEFINE that passes every check of R7 and asks for a gate inserts its record and binds the channel, which takes the
dead time and stays DISCONNECTED. -/
theorem carryDefine_gated {s : State} {c : ClientId} {d : DefineParams} {rank : Fin 16} {g : ChannelId} {dead : Half}
    (hadm : (s.client c).admin ≠ false) (hacc : defineAccepted d = some (rank, some (g, dead)))
    (hnew : s.find d.name = none) (hroom : ¬ s.records.length ≥ Config.directoryCapacity) (hfree : (s.channel g).busy = false) :
    carryDefine c d s =
      ({ s.setChannel g { binding := some d.name, deadTime := some dead, state := .disconnected } with
          records := insertRecord (definedRecord d rank (some g)) s.records }, .ok, .nothing) := by
  have hstate : (s.channel g).state = .disconnected := by
    simp only [Channel.busy, Bool.or_eq_false_iff, bne_eq_false_iff_eq] at hfree
    exact hfree.2
  unfold carryDefine
  rw [if_neg hadm, hacc]
  dsimp only
  rw [if_neg (by simp [hnew]), if_neg hroom, if_neg (by simp [hfree]), ← hstate]
  rfl

/-- Settles O50, from what each check of R7 refuses and the place of a new name in the directory. -/
theorem defineCreatesTheRecord : Obligations.DefineCreatesTheRecord := by
  intro s p h d hn
  refine ⟨fun st hf => exec_define_new hn (carryDefine_refused hf), fun hdir hpass => ?_⟩
  simp only [AllPass, defineChecks, List.forall_mem_cons, not_not] at hpass
  obtain ⟨hadm, hpar, hnew, hroom, hchan, -⟩ := hpass
  obtain ⟨⟨rank, gate⟩, hacc⟩ := Option.ne_none_iff_exists'.mp (mt (defineAccepted_eq_none_iff d).mp hpar)
  obtain ⟨hrank, hgate⟩ := defineAccepted_eq_some hacc
  obtain ⟨pre, post, hsplit, hpre, hpost, hins⟩ :=
    insertRecord_split d.name s.records hdir.1 (State.name_ne_of_find_none hnew)
  refine ⟨rank, pre, post, hrank.symm, hsplit, hpre, hpost, fun hno => ?_, fun g hyes hg => ?_⟩
  · obtain rfl : gate = none := Option.some.inj (hgate.symm.trans (gateRequested_no hno))
    rw [← hins _ rfl]
    exact exec_define_new hn (carryDefine_plain hadm hacc hnew hroom)
  · obtain rfl := gateRequested_yes hgate hyes hg
    have hfree : (s.channel g).busy = false :=
      Bool.eq_false_iff.mpr fun hb => hchan ⟨hyes, g, hg, (Channel.busy_iff _).mp hb⟩
    rw [← hins _ rfl]
    exact exec_define_new hn (carryDefine_gated hadm hacc hnew hroom hfree)

/-! ### AMEND -/

/-- Checks 3 to 5 of R9 on a present record, for the rank that check 1 accepted. -/
theorem amendRefused_eq (r : Record) (a : AmendParams) (rank : Fin 16) (hrank : a.rank.toNat = rank.val) :
    amendRefused r a rank =
      if r.gate ≠ none ∧ a.shareLimit ≠ 1#8 then some .badParam
      else if a.shareLimit.toNat < r.holders.length then some .badParam
      else if a.rank.toNat ≠ r.rank.val ∧ (r.holders ≠ [] ∨ r.waiters ≠ []) then some .resourceBusy
      else none := by
  simp [amendRefused, hrank, Fin.ext_iff, Option.isSome_iff_ne_none]

/-- R9: an AMEND is refused with the status of its first failing check, and changes nothing. -/
theorem carryAmend_refused {s : State} {c : ClientId} {a : AmendParams} {st : Status}
    (h : FirstFailing (amendChecks s c a) st) : carryAmend c a s = refusal s st := by
  unfold carryAmend
  rcases h with ⟨hadm, rfl⟩ | ⟨hadm, h⟩
  · exact if_pos hadm
  rw [if_neg hadm]
  rcases h with ⟨hpar, rfl⟩ | ⟨hpar, h⟩
  · rw [(amendAccepted_eq_none_iff a).mpr hpar]
  obtain ⟨rank, hacc⟩ := Option.ne_none_iff_exists'.mp (mt (amendAccepted_eq_none_iff a).mp hpar)
  rw [hacc]
  dsimp only
  rcases h with ⟨hnone, rfl⟩ | ⟨hnone, h⟩
  · rw [hnone]
  obtain ⟨r, hr⟩ := Option.ne_none_iff_exists'.mp hnone
  simp only [hr, Option.some.injEq, exists_eq_left', FirstFailing] at h
  have hrec : amendRefused r a rank = some st := by
    rw [amendRefused_eq r a rank (amendAccepted_eq_some hacc)]
    rcases h with ⟨hgate, rfl⟩ | ⟨hgate, h⟩
    · exact if_pos hgate
    rw [if_neg hgate]
    rcases h with ⟨hheld, rfl⟩ | ⟨hheld, h⟩
    · exact if_pos hheld
    rw [if_neg hheld]
    rcases h with ⟨hbusy, rfl⟩ | ⟨-, h⟩
    · exact if_pos hbusy
    · exact h.elim
  simp only [hr, hrec]

/-- The four values of an accepted AMEND written into a record (R10). -/
def amendedRecord (a : AmendParams) (rank : Fin 16) (r : Record) : Record :=
  { r with leaseTerm := a.leaseTerm, recallGrace := a.recallGrace, shareLimit := a.shareLimit.toNat, rank := rank }

/-- R10 and R11: an AMEND that passes every check of R9 writes its four values, and the grant pass and recall evaluation run. -/
theorem carryAmend_accepted {s : State} {c : ClientId} {a : AmendParams} {rank : Fin 16}
    (h : AllPass (amendChecks s c a)) (hrank : a.rank.toNat = rank.val) :
    carryAmend c a s =
      (((s.updateRecord a.name (amendedRecord a rank)).grantPass none a.name).evalRecall a.name, .ok, .nothing) := by
  simp only [AllPass, amendChecks, List.forall_mem_cons] at h
  obtain ⟨hadm, hpar, hnone, hgate, hheld, hbusy, -⟩ := h
  obtain ⟨r, hr⟩ := Option.ne_none_iff_exists'.mp hnone
  have hacc : amendAccepted a = some rank := by
    obtain ⟨x, hx⟩ := Option.ne_none_iff_exists'.mp (mt (amendAccepted_eq_none_iff a).mp hpar)
    rw [hx, Fin.ext ((amendAccepted_eq_some hx).symm.trans hrank)]
  have hrec : amendRefused r a rank = none := by
    rw [amendRefused_eq r a rank hrank, if_neg fun k => hgate ⟨r, hr, k⟩, if_neg fun k => hheld ⟨r, hr, k⟩,
      if_neg fun k => hbusy ⟨r, hr, k⟩]
  unfold carryAmend
  rw [if_neg hadm]
  simp only [hacc, hr, hrec]
  rfl

/-- Settles O51, from what each check of R9 refuses and what the write of the four values leaves. -/
theorem amendWritesFourValues : Obligations.AmendWritesFourValues := by
  intro s p h a hn
  refine ⟨fun st hf => exec_amend_new hn (carryAmend_refused hf), fun rank hpass hrank => ?_⟩
  have hfind (m : Name) := s.find_updateRecord a.name m (amendedRecord a rank) fun _ => rfl
  refine ⟨exec_amend_new hn (carryAmend_accepted hpass hrank), rfl, rfl, rfl, ⟨rfl, rfl, rfl, rfl⟩, fun k hk => ?_,
    fun r hr => ?_⟩
  · exact (hfind k).trans (if_neg hk)
  · refine (hfind a.name).trans ?_
    rw [if_pos rfl, hr]
    rfl

end Sys2Proof.Machine
end

section
/-! PROOFS. The compatibility test of a waiter with a resource's holders (R43, Table 3-2). -/

namespace Sys2Proof.Machine

open Sys2Proof.Claims

/-! ### Table 3-2 -/

/-- Table 3-2, the EXCLUSIVE row. -/
theorem Record.compatible_exclusive_iff (r : Record) : r.compatible .exclusive = true ↔ r.holders = [] :=
  List.isEmpty_iff

/-- The two modes are each other's complement. -/
theorem Mode.eq_shared_iff (m : Mode) : m = .shared ↔ m ≠ .exclusive := by
  cases m <;> simp

/-- Table 3-2, the SHARED row. -/
theorem Record.compatible_shared_iff (r : Record) :
    r.compatible .shared = true ↔
      (∀ h ∈ r.holders, h.mode ≠ .exclusive) ∧ r.holders.length < r.shareLimit := by
  simp only [Record.compatible, Bool.and_eq_true, List.all_eq_true, beq_iff_eq, decide_eq_true_eq, Mode.eq_shared_iff]

/-! ### What the test depends on -/

/-- The test reads the holder list and the share limit alone. -/
theorem Record.compatible_congr {r q : Record} (hh : r.holders = q.holders) (hl : r.shareLimit = q.shareLimit)
    (m : Mode) : r.compatible m = q.compatible m := by
  cases m <;> simp only [Record.compatible, hh, hl]

/-- R43: a waiter compatible with a longer holder list under a lower share limit is compatible with a part of that list under
a higher one. -/
theorem Record.compatible_of_sublist {r q : Record} {m : Mode} (hh : r.holders.Sublist q.holders)
    (hl : q.shareLimit ≤ r.shareLimit) (h : q.compatible m = true) : r.compatible m = true := by
  cases m with
  | exclusive =>
    rw [Record.compatible_exclusive_iff] at h ⊢
    exact List.sublist_nil.mp (h ▸ hh)
  | shared =>
    rw [Record.compatible_shared_iff] at h ⊢
    obtain ⟨hmodes, hroom⟩ := h
    exact ⟨fun x hx => hmodes x (hh.subset hx), hh.length_le.trans_lt (hroom.trans_le hl)⟩

/-- R43: at share limit 1 either mode waits for an empty holder list. -/
theorem Record.compatible_shared_iff_of_limit_one {r : Record} (hl : r.shareLimit = 1) :
    r.compatible .shared = true ↔ r.holders = [] := by
  rw [Record.compatible_shared_iff, hl, Nat.lt_one_iff, List.length_eq_zero_iff]
  exact ⟨And.right, fun h => ⟨by simp [h], h⟩⟩

/-! ### The admission of a SHARED request at share limit 1 -/

/-- R40, check 2: an ACTIVE resource of share limit 1 refuses the mode SHARED before any check of the client's slots. -/
theorem State.admission_shared_of_limit_one (s : State) (c : ClientId) {r : Record} (ha : r.state = .active)
    (hl : r.shareLimit = 1) : s.admission c r .shared = .error .badMode := by
  unfold State.admission
  rw [if_neg (by simp [ha]), if_pos ⟨rfl, hl⟩]

/-- An ACQUIRE of a nonzero name in the directory that its admission refuses changes nothing (R40). -/
theorem carryAcquire_of_admission_error {s : State} {c : ClientId} {n : Name} {mode : Byte} {limit : Half} {m : Mode}
    {r : Record} {st : Status} (hm : modeOf mode = some m) (hn : n ≠ 0#16) (hr : s.find n = some r)
    (ha : s.admission c r m = .error st) : carryAcquire c n mode limit s = (s, st, .nothing) := by
  unfold carryAcquire
  simp only [hm, if_neg hn, hr, ha]
  rfl

/-- The command ACQUIRE, where the carrying out is known. -/
theorem exec_acquire_new {s t : State} {p : Port} {h : Header} {n : Name} {mode : Byte} {limit : Half} {st : Status}
    {pl : Payload} (hn : New s p ⟨h, .acquire n mode limit⟩) (hc : carryAcquire h.client n mode limit s = (t, st, pl)) :
    exec (.acquire p h n mode limit .atFrameEnd) s = .next (completed t p ⟨h, .acquire n mode limit⟩ st pl) :=
  congrArg _ (requestFrame_new hn nofun hc)

/-- Settles O34, from the two rows of Table 3-2, the monotonicity of the test, and the admission check on the mode. -/
theorem compatibilityTest : Obligations.CompatibilityTest := by
  refine ⟨Record.compatible_exclusive_iff, Record.compatible_shared_iff,
    fun r q m hh hl => Record.compatible_congr hh hl m, fun r q m => Record.compatible_of_sublist, fun r hl => ?_,
    fun s p h n limit r hnew hr hn ha hl => ?_⟩
  · rw [Bool.eq_iff_iff, Record.compatible_exclusive_iff, Record.compatible_shared_iff_of_limit_one hl]
  · have hadm := s.admission_shared_of_limit_one h.client ha hl
    exact exec_acquire_new hnew (carryAcquire_of_admission_error rfl hn hr hadm)

end Sys2Proof.Machine
end

section
/-! PROOFS. Renewal of leases (R62 to R64). -/

namespace Sys2Proof.Machine

open Sys2Proof.Claims

/-! ### The slot byte -/

/-- A slot byte above 7 is refused (R62). -/
theorem slotOf_eq_none_iff (b : Byte) : slotOf b = none ↔ 7 < b.toNat := by
  unfold slotOf
  split <;> simp <;> omega

/-- Any other slot byte names the slot of its value. -/
theorem slotOf_eq_some_iff (b : Byte) (i : SlotId) : slotOf b = some i ↔ b.toNat = i.val := by
  unfold slotOf
  split
  · simp [Fin.ext_iff]
  · simp; omega

/-! ### The renewal of one slot -/

/-- The lease deadline that a renewal writes now for a resource (R63). -/
def State.newLease (s : State) (n : Name) : Deadline := s.after (s.termMs n)

/-- A HELD or RECALLED slot with the lease deadline that `lease` gives its resource; any other slot as it is. -/
def Slot.withLease (lease : Name → Deadline) : Slot → Slot
  | .held n m g _ => .held n m g (lease n)
  | .recalled n m g _ d => .recalled n m g (lease n) d
  | x => x

/-- The deadline written for a resource is read from its record. -/
theorem State.newLease_of_find {s : State} {n : Name} {r : Record} (h : s.find n = some r) : s.newLease n = leaseEnd s r := by
  simp only [State.newLease, State.termMs, h]
  rfl

/-- A renewal reads the clock and the records alone. -/
@[simp] theorem State.newLease_setSlot (s : State) (c : ClientId) (i : SlotId) (x : Slot) :
    (s.setSlot c i x).newLease = s.newLease := rfl

/-- Writing a slot back as it stands changes nothing. -/
@[simp] theorem State.setSlot_slot (s : State) (c : ClientId) (i : SlotId) : s.setSlot c i (s.slot c i) = s := by
  have h : (s.client c).slots.set i (s.client c).slots[i] = (s.client c).slots := Vector.set_getElem_self _
  unfold State.setSlot State.slot
  rw [h]
  exact s.setClient_client c

/-- The renewal of one slot is the write of its lease deadline. -/
theorem State.renewSlot_eq (s : State) (c : ClientId) (i : SlotId) :
    s.renewSlot c i = s.setSlot c i ((s.slot c i).withLease s.newLease) := by
  unfold State.renewSlot
  cases h : s.slot c i with
  | held n m g l => rfl
  | recalled n m g l d => rfl
  | free | waiting | gating | ended => simp only [Slot.withLease, ← h, State.setSlot_slot]

/-- Where the directory has the resource of a slot that holds one, the slot renewed is the slot of R63. -/
theorem Slot.withLease_newLease {s : State} {x : Slot} (h : ∀ n m g, x.holding = some (n, m, g) → s.find n ≠ none) :
    x.withLease s.newLease = renewed s x := by
  cases x with
  | held n m g l =>
    obtain ⟨r, hr⟩ := Option.ne_none_iff_exists'.mp (h n m g rfl)
    simp only [Slot.withLease, renewed, hr, State.newLease_of_find hr]
  | recalled n m g l d =>
    obtain ⟨r, hr⟩ := Option.ne_none_iff_exists'.mp (h n m g rfl)
    simp only [Slot.withLease, renewed, hr, State.newLease_of_find hr]
  | free | waiting | gating | ended => rfl

/-! ### RENEW -/

/-- R62: a slot byte above 7. -/
theorem carryRenew_of_slot_above {slot : Byte} (s : State) (c : ClientId) (h : 7 < slot.toNat) :
    carryRenew c slot s = (s, .badParam, .nothing) := by
  unfold carryRenew
  rw [(slotOf_eq_none_iff slot).mpr h]
  rfl

section

variable {s : State} {c : ClientId} {slot : Byte} {i : SlotId} {n : Name} {m : Mode} {g : Gen} {l d : Deadline} {r : Record}

/-- R63: a HELD slot. -/
theorem carryRenew_of_held (hi : slot.toNat = i.val) (hx : s.slot c i = .held n m g l) (hr : s.find n = some r) :
    carryRenew c slot s =
      (s.setSlot c i (.held n m g (leaseEnd s r)), .ok, .renewed .held (leaseEnd s r).value) := by
  unfold carryRenew
  simp only [(slotOf_eq_some_iff slot i).mpr hi, hx, State.renewSlot_eq, Slot.withLease, ← State.newLease_of_find hr]
  rfl

/-- R63: a RECALLED slot, which keeps its recall deadline. -/
theorem carryRenew_of_recalled (hi : slot.toNat = i.val) (hx : s.slot c i = .recalled n m g l d) (hr : s.find n = some r) :
    carryRenew c slot s =
      (s.setSlot c i (.recalled n m g (leaseEnd s r) d), .ok, .renewed .recalled (leaseEnd s r).value) := by
  unfold carryRenew
  simp only [(slotOf_eq_some_iff slot i).mpr hi, hx, State.renewSlot_eq, Slot.withLease, ← State.newLease_of_find hr]
  rfl

/-- R62: a GATING slot has no lease deadline yet. -/
theorem carryRenew_of_gating (hi : slot.toNat = i.val) (hx : (s.slot c i).isGating = true) :
    carryRenew c slot s = (s, .pending, .nothing) := by
  unfold carryRenew
  rw [(slotOf_eq_some_iff slot i).mpr hi]
  cases h : s.slot c i with
  | gating n m g => simp only [h]; rfl
  | free | waiting | held | recalled | ended => rw [h] at hx; cases hx

/-- R62: a slot that holds nothing. -/
theorem carryRenew_of_not_holding (hi : slot.toNat = i.val) (hx : (s.slot c i).holdingGen = none) :
    carryRenew c slot s = (s, .notHeld, .nothing) := by
  unfold carryRenew
  rw [(slotOf_eq_some_iff slot i).mpr hi]
  cases h : s.slot c i with
  | free | waiting | ended => simp only [h]; rfl
  | gating | held | recalled => rw [h] at hx; cases hx

end

/-- The command RENEW, where the carrying out is known. -/
theorem exec_renew_new {s t : State} {p : Port} {h : Header} {slot : Byte} {st : Status} {pl : Payload}
    (hn : New s p ⟨h, .renew slot⟩) (hc : carryRenew h.client slot s = (t, st, pl)) :
    exec (.renew p h slot .atFrameEnd) s = .next (completed t p ⟨h, .renew slot⟩ st pl) :=
  congrArg _ (requestFrame_new hn nofun hc)

/-! ### RENEW_ALL -/

/-- Some distinct slots of a client renewed one after the other: each is renewed as it stood before, and nothing else of the
state changes. -/
theorem foldl_renewSlot (c : ClientId) {l : List SlotId} (hl : l.Nodup) (s : State) :
    l.foldl (fun u i => u.renewSlot c i) s =
      s.setClient c { s.client c with
        slots := Vector.ofFn fun j => if j ∈ l then (s.slot c j).withLease s.newLease else s.slot c j } := by
  induction l generalizing s with
  | nil =>
    have hslots : Vector.ofFn (s.slot c) = (s.client c).slots := by
      ext j hj
      simp [State.slot]
    simp only [List.foldl_nil, List.not_mem_nil, if_false, hslots]
    exact (s.setClient_client c).symm
  | cons i l ih =>
    obtain ⟨hi, hl⟩ := List.nodup_cons.mp hl
    have hslots (j : SlotId) :
        (if j ∈ l then ((s.renewSlot c i).slot c j).withLease s.newLease else (s.renewSlot c i).slot c j) =
          if j ∈ i :: l then (s.slot c j).withLease s.newLease else s.slot c j := by
      rw [s.renewSlot_eq, State.slot_setSlot]
      by_cases hj : i = j
      · subst hj
        simp [hi]
      · simp [hj, Ne.symm hj]
    have hlease : (s.renewSlot c i).newLease = s.newLease := by rw [s.renewSlot_eq, State.newLease_setSlot]
    rw [List.foldl_cons, ih hl, hlease]
    simp only [hslots]
    rw [s.renewSlot_eq, State.client_setSlot, if_pos rfl]
    exact State.setClient_setClient s c _ _

/-- The slot numbers in ascending order are those of the statements' counts. -/
theorem allSlots_eq_finRange : allSlots = List.finRange 8 := by decide

/-- R64: every HELD and RECALLED slot of the client renewed, and their number. -/
theorem carryRenewAll_eq {s : State} {c : ClientId}
    (h : ∀ i n m g, (s.slot c i).holding = some (n, m, g) → s.find n ≠ none) :
    carryRenewAll c s =
      (s.setClient c { s.client c with slots := Vector.ofFn fun i => renewed s (s.slot c i) }, .ok,
        .count (slotCount s c Slot.leased)) := by
  have hslots (i : SlotId) : (s.slot c i).withLease s.newLease = renewed s (s.slot c i) := Slot.withLease_newLease (h i)
  have hcount : s.leasedSlots c = slotCount s c Slot.leased := by
    unfold State.leasedSlots slotCount
    rw [allSlots_eq_finRange]
  unfold carryRenewAll
  rw [hcount, foldl_renewSlot c (by decide) s]
  simp [allSlots_eq_finRange, hslots]

/-- The command RENEW_ALL, where the carrying out is known. -/
theorem exec_renewAll_new {s t : State} {p : Port} {h : Header} {st : Status} {pl : Payload}
    (hn : New s p ⟨h, .renewAll⟩) (hc : carryRenewAll h.client s = (t, st, pl)) :
    exec (.renewAll p h .atFrameEnd) s = .next (completed t p ⟨h, .renewAll⟩ st pl) :=
  congrArg _ (requestFrame_new hn nofun hc)

/-- Settles O40, from RENEW by the state of its slot and the renewals of RENEW_ALL, none of which another of them sees. -/
theorem renewalRewritesLeaseDeadlines : Obligations.RenewalRewritesLeaseDeadlines := by
  refine ⟨fun s p h slot hn => ⟨fun hslot => ?_, fun i hi => ⟨?_, ?_, ?_, ?_⟩⟩, fun s p h hn hrec => ?_⟩
  · exact exec_renew_new hn (carryRenew_of_slot_above s _ hslot)
  · exact fun n m g l r hx hr => exec_renew_new hn (carryRenew_of_held hi hx hr)
  · exact fun n m g l d r hx hr => exec_renew_new hn (carryRenew_of_recalled hi hx hr)
  · exact fun hx => exec_renew_new hn (carryRenew_of_gating hi hx)
  · exact fun hx => exec_renew_new hn (carryRenew_of_not_holding hi hx)
  · exact exec_renewAll_new hn (carryRenewAll_eq hrec)

end Sys2Proof.Machine
end

section
/-! PROOFS. The lease clock (R58, R59). -/

namespace Sys2Proof.Machine

open Sys2Proof.Claims

/-! ### The tick -/

/-- An entry of a fixed table that was changed entry by entry. -/
theorem getElem_mapVector {α : Type} {k : Nat} (f : α → α) (v : Vector α k) (i : Nat) (hi : i < k) :
    (mapVector f v)[i] = f v[i] := by
  simp [mapVector]

/-- R59: an armed deadline when the clock reaches a value. -/
theorem Deadline.tick_eq_reached (now : Clock) (d : Deadline) : d.tick now = reached now d := by
  unfold Deadline.tick reached
  split <;> simp_all

/-- R59: a slot when the clock reaches a value. -/
theorem Slot.tick_eq_slotAt (now : Clock) (x : Slot) : x.tick now = slotAt now x := by
  cases x with
  | waiting n m w => cases w <;> simp [Slot.tick, slotAt, Deadline.tick_eq_reached]
  | held n m g l => simp [Slot.tick, slotAt, Deadline.tick_eq_reached]
  | recalled n m g l d => simp [Slot.tick, slotAt, Deadline.tick_eq_reached]
  | free | gating | ended => rfl

/-- A client when the clock reaches a value: its slots' deadlines alone change. -/
theorem State.client_clockAt (s : State) (now : Clock) (c : ClientId) :
    (s.clockAt now).client c = { s.client c with slots := mapVector (Slot.tick now) (s.client c).slots } :=
  getElem_mapVector _ s.clients c.val c.isLt

/-- A slot when the clock reaches a value. -/
theorem State.slot_clockAt (s : State) (now : Clock) (c : ClientId) (i : SlotId) :
    (s.clockAt now).slot c i = slotAt now (s.slot c i) := by
  unfold State.slot
  rw [s.client_clockAt, ← Slot.tick_eq_slotAt]
  exact getElem_mapVector _ (s.client c).slots i.val i.isLt

/-- R58: outside a reset a tick advances the clock. -/
theorem exec_leaseClockTick_counting {s : State} (h : s.inReset = false) :
    exec .leaseClockTick s = .next (s.clockAt (s.clock + 1#40)) :=
  congrArg Host.Outcome.next (if_neg (Bool.eq_false_iff.mp h))

/-- R58: in a reset the clock does not count. -/
theorem exec_leaseClockTick_inReset {s : State} (h : s.inReset = true) : exec .leaseClockTick s = .next s :=
  congrArg Host.Outcome.next (if_pos h)

/-! ### Deadline and settle events leave the clock alone -/

theorem State.waitDeadline_tablesOnly (s : State) (c : ClientId) (i : SlotId) : TablesOnly s (s.waitDeadline c i) := by
  unfold State.waitDeadline
  split
  · split
    · exact (s.endWait_tablesOnly c i .timeout).trans (State.followUp_tablesOnly _ _)
    · exact TablesOnly.rfl' s
  · exact TablesOnly.rfl' s

/-- A lease that ends, with its follow-up. -/
theorem State.endHolding_followUp_tablesOnly (s : State) (c : ClientId) (i : SlotId) (cause : EndCause) (n : Name) :
    TablesOnly s ((s.endHolding c i cause).followUp n) :=
  (s.endHolding_tablesOnly c i cause).trans (State.followUp_tablesOnly _ n)

theorem State.expire_tablesOnly (s : State) (c : ClientId) (i : SlotId) : TablesOnly s (s.expire c i) := by
  unfold State.expire
  split
  · split
    · exact s.endHolding_followUp_tablesOnly c i _ _
    · exact TablesOnly.rfl' s
  · split
    · exact s.endHolding_followUp_tablesOnly c i _ _
    · exact TablesOnly.rfl' s
  · exact TablesOnly.rfl' s

theorem State.revoke_tablesOnly (s : State) (c : ClientId) (i : SlotId) : TablesOnly s (s.revoke c i) := by
  unfold State.revoke
  split
  · split
    · exact s.endHolding_followUp_tablesOnly c i _ _
    · exact TablesOnly.rfl' s
  · exact TablesOnly.rfl' s

theorem State.settleEnds_tablesOnly (s : State) (g : ChannelId) : TablesOnly s (s.settleEnds g) := by
  unfold State.settleEnds
  split
  · unfold State.settleBound
    split
    · split
      · exact (State.evalRecall_tablesOnly _ _).over rfl rfl rfl rfl
      · exact TablesOnly.rfl' s
    · exact ⟨rfl, rfl, rfl, rfl⟩
  · exact ⟨rfl, rfl, rfl, rfl⟩

/-! ### The port units leave the clock alone -/

/-- A fold of operations that leave the clock alone. -/
theorem foldl_clock {α : Type} {f : State → α → State} (hf : ∀ u a, (f u a).clock = u.clock) (l : List α) (s : State) :
    (l.foldl f s).clock = s.clock :=
  List.foldlRecOn l f (motive := fun u => u.clock = s.clock) rfl fun u hu a _ => (hf u a).trans hu

/-- The end of a good frame leaves the clock alone where the taking of its request does. -/
theorem State.goodFrame_clock (s : State) (p : Port) (bytes : List Byte) {taken : State → State}
    (ht : ∀ u, (taken u).clock = u.clock) : (s.goodFrame p bytes taken).clock = s.clock := by
  obtain ⟨-, e⟩ | ⟨-, -, e⟩ | ⟨-, -, -, -, e⟩ | ⟨-, -, -, -, e⟩ := s.goodFrame_cases p bytes taken
  · rw [e]
  · rw [e, State.setPort_clock]
  · rw [e, State.setPort_clock]
  · rw [e, ht, State.setPort_clock]

theorem State.carryHanded_clock (s : State) (p : Port) (r : Request) : (s.carryHanded p r).1.clock = s.clock := by
  unfold State.carryHanded
  rw [(carryOut_tablesOnly _ p r).clock, (s.carryEarlier_only _).clock]

theorem State.take_clock (s : State) (p : Port) (r : Request) (tm : Timing) : (s.take p r tm).clock = s.clock := by
  cases tm with
  | later => rfl
  | atFrameEnd =>
    simp only [State.take, State.process]
    rw [State.setResponse_clock, State.carryHanded_clock, State.setResponse_clock]

theorem State.requestFrame_clock (s : State) (p : Port) (r : Request) (tm : Timing) :
    (s.requestFrame p r tm).clock = s.clock :=
  s.goodFrame_clock p _ fun u => u.take_clock p r tm

theorem State.endBad_clockIn_clock (s : State) (p : Port) (bits : List Bool) :
    ((s.clockIn p bits).endBad p).clock = s.clock := by
  cases hf : (s.port p).frame with
  | none => simp only [s.clockIn_none p bits hf, State.endBad, hf]
  | some f => rw [s.endBad_clockIn p bits f hf, State.setPort_clock]

theorem State.screenHanded_clock (s : State) (p : Port) : (s.screenHanded p).clock = s.clock := by
  unfold State.screenHanded
  split
  · split <;> rw [State.setResponse_clock, (s.carryEarlier_only _).clock]
  all_goals rfl

theorem State.faultClient_clock (s : State) (p : Port) (c : ClientId) : (s.faultClient p c).clock = s.clock := by
  unfold State.faultClient
  split
  · dsimp only
    rw [State.setClient_clock]
    split
    · split
      · exact ((s.endWait_tablesOnly _ _ _).trans (State.followUp_tablesOnly _ _)).clock
      · rfl
    · rfl
  · rfl

theorem State.takeFault_clock (s : State) (p : Port) : (s.takeFault p).clock = s.clock := by
  unfold State.takeFault
  split
  · unfold State.suspendClients
    rw [foldl_clock (fun u c => u.faultClient_clock p c), State.setPort_clock, s.screenHanded_clock]
  · rfl

theorem State.reopen_clock (s : State) (p : Port) (c : ClientId) : (s.reopen p c).clock = s.clock := by
  unfold State.reopen
  split <;> rfl

theorem State.resetLink_clock (s : State) (p : Port) (seq : Byte) : (s.resetLink p seq).clock = s.clock := by
  unfold State.resetLink
  dsimp only
  rw [State.setResponse_clock, foldl_clock (fun u c => u.reopen_clock p c), State.setPort_clock, s.takeFault_clock]

/-! ### No command but the tick and the chip reset moves the clock -/

/-- A client-level request command is the end of its request's frame. -/
theorem exec_of_instrRequest {i : Instr} {r : Request} (h : instrRequest i = some r) :
    ∃ p tm, ∀ s, exec i s = .next (s.requestFrame p r tm) := by
  cases i <;> cases h <;> exact ⟨_, _, fun _ => rfl⟩

/-- A command leaves the clock alone, in every state in which it completes. -/
def KeepsClock (i : Instr) : Prop := ∀ s t : State, exec i s = .next t → t.clock = s.clock

/-- A command whose next state is given keeps the clock where that state does. -/
theorem keepsClock_of_exec {i : Instr} (f : State → State) (he : ∀ s, exec i s = .next (f s))
    (hf : ∀ s, (f s).clock = s.clock) : KeepsClock i := by
  intro s t h
  rw [he] at h
  cases h
  exact hf s

theorem keepsClock_frameStart (p : Port) : KeepsClock (.frameStart p) :=
  keepsClock_of_exec _ (fun _ => rfl) fun s => by split <;> rfl

/-- LINK_RESET, by the link state and the response slot of its port. -/
theorem keepsClock_linkReset (p : Port) (h : Header) : KeepsClock (.linkReset p h) :=
  keepsClock_of_exec _ (fun _ => rfl) fun s => by
    split
    · rfl
    · exact s.goodFrame_clock p _ fun u => u.resetLink_clock p h.seq
    · split
      · rfl
      · exact State.resetLink_clock _ p h.seq
      · exact State.resetLink_clock _ p h.seq

/-- ANSWER_PLACED, by the stage of the request in processing. -/
theorem keepsClock_answerPlaced (p : Port) : KeepsClock (.answerPlaced p) :=
  keepsClock_of_exec _ (fun _ => rfl) fun s => by
    split
    · rfl
    · next r k _ => rw [State.setResponse_clock, (carryScreened_tablesOnly s k p r).clock]
    · next r _ => rw [State.setResponse_clock, s.carryHanded_clock]
    · rfl
    · rfl

/-- SETTLE_END, by the state of its channel. -/
theorem keepsClock_settleEnd (g : ChannelId) (us : Nat) : KeepsClock (.settleEnd g us) :=
  keepsClock_of_exec _ (fun _ => rfl) fun s => by
    split
    · split
      · exact (s.settleEnds_tablesOnly g).clock
      · rfl
    · rfl
    · rfl

/-- R58: the clock is not stopped, set or changed by any request, nor by any event but its own tick and a chip reset. -/
theorem keepsClock {i : Instr} (htick : i ≠ .leaseClockTick) (hreset : i ≠ .chipReset) : KeepsClock i := by
  cases hr : instrRequest i with
  | some r =>
    obtain ⟨p, tm, he⟩ := exec_of_instrRequest hr
    exact keepsClock_of_exec _ he fun s => s.requestFrame_clock p r tm
  | none =>
    cases i with
    | frameStart p => exact keepsClock_frameStart p
    | badFrame f => exact keepsClock_of_exec _ (fun _ => rfl) fun s => s.endBad_clockIn_clock f.port f.bits
    | unknownKind p h kind payload =>
      exact keepsClock_of_exec _ (fun _ => rfl) fun s => s.goodFrame_clock p _ fun _ => rfl
    | poll p f => exact keepsClock_of_exec _ (fun _ => rfl) fun s => s.goodFrame_clock p _ fun _ => rfl
    | probe p h => exact keepsClock_of_exec _ (fun _ => rfl) fun s => s.goodFrame_clock p _ fun _ => rfl
    | linkReset p h => exact keepsClock_linkReset p h
    | answerPlaced p => exact keepsClock_answerPlaced p
    | portFault p => exact keepsClock_of_exec _ (fun _ => rfl) fun s => s.takeFault_clock p
    | waitDeadline c j => exact keepsClock_of_exec _ (fun _ => rfl) fun s => (s.waitDeadline_tablesOnly c j).clock
    | expiry c j => exact keepsClock_of_exec _ (fun _ => rfl) fun s => (s.expire_tablesOnly c j).clock
    | revocation c j => exact keepsClock_of_exec _ (fun _ => rfl) fun s => (s.revoke_tablesOnly c j).clock
    | settleEnd g us => exact keepsClock_settleEnd g us
    | chipReset => exact absurd rfl hreset
    | leaseClockTick => exact absurd rfl htick
    | unclockedFrame p => exact keepsClock_of_exec _ (fun _ => rfl) fun _ => rfl
    | endOfReset => exact keepsClock_of_exec _ (fun _ => rfl) fun _ => rfl
    | _ => cases hr

/-- Settles O56, from the tick in and outside a reset, and the clock that every other command but the chip reset keeps. -/
theorem leaseClockCountsAndRaises : Obligations.LeaseClockCountsAndRaises := by
  refine ⟨fun s hs => ⟨s.clockAt (s.clock + 1#40), exec_leaseClockTick_counting hs, BitVec.toNat_add _ _, s.slot_clockAt _,
    fun c => ?_, rfl, rfl, rfl, rfl, rfl, rfl⟩, fun s => exec_leaseClockTick_inReset, fun i s t htick h => ⟨?_, ?_⟩⟩
  · rw [s.client_clockAt]
  · rintro rfl
    cases h
    rfl
  · exact fun hreset => keepsClock htick hreset s t h

end Sys2Proof.Machine
end

section
/-! PROOFS. The recall condition (R74 to R76) and recall evaluation (R78 to R80). -/

namespace Sys2Proof.Machine

open Sys2Proof.Claims Sys2Proof.Safety

/-! ### The least urgent of some holders, the last granted among equals (R76) -/

section

variable (s : State) (P : Holder → Prop)

/-- The least urgent of the holders of a list with a property, among equals the one nearest the tail (R76). -/
def LeastUrgentAmong (l : List Holder) (h : Holder) : Prop :=
  P h ∧
    ∃ pre post, l = pre ++ h :: post ∧
      (∀ x ∈ pre, P x → (s.client x.client).priority ≤ (s.client h.client).priority) ∧
      (∀ x ∈ post, P x → (s.client x.client).priority < (s.client h.client).priority)

variable {s P} {l : List Holder} {a b h x : Holder}

/-- At most one holder is the least urgent: of two at different places, the one ahead would be strictly more urgent than the
one behind, which is no less urgent. -/
theorem LeastUrgentAmong.unique (ha : LeastUrgentAmong s P l a) (hb : LeastUrgentAmong s P l b) : a = b := by
  obtain ⟨hPa, preA, postA, rfl, hpreA, hpostA⟩ := ha
  obtain ⟨hPb, preB, postB, hsplit, hpreB, hpostB⟩ := hb
  obtain ⟨mid, hpre, htail⟩ | ⟨mid, hpre, htail⟩ := List.append_eq_append_iff.mp hsplit
  · cases mid with
    | nil => exact (List.cons.inj htail).1
    | cons y mid =>
      obtain ⟨rfl, rfl⟩ := List.cons.inj htail
      exact absurd (hpreB a (by simp [hpre]) hPa) (not_le.mpr (hpostA b (by simp) hPb))
  · cases mid with
    | nil => exact (List.cons.inj htail).1.symm
    | cons y mid =>
      obtain ⟨rfl, rfl⟩ := List.cons.inj htail
      exact absurd (hpreA b (by simp [hpre]) hPb) (not_le.mpr (hpostB a (by simp) hPa))

/-- A holder behind the list changes nothing where it has not the property or is more urgent. -/
theorem LeastUrgentAmong.concat_of_lt (hh : LeastUrgentAmong s P l h)
    (hx : P x → (s.client x.client).priority < (s.client h.client).priority) : LeastUrgentAmong s P (l ++ [x]) h := by
  obtain ⟨hP, pre, post, rfl, hpre, hpost⟩ := hh
  refine ⟨hP, pre, post ++ [x], by simp, hpre, fun y hy hPy => ?_⟩
  obtain hy | rfl : y ∈ post ∨ y = x := by simpa using hy
  · exact hpost y hy hPy
  · exact hx hPy

/-- A holder with the property behind the list takes the place of one that is not less urgent. -/
theorem LeastUrgentAmong.concat_of_le (hh : LeastUrgentAmong s P l h) (hPx : P x)
    (hx : (s.client h.client).priority ≤ (s.client x.client).priority) : LeastUrgentAmong s P (l ++ [x]) x := by
  obtain ⟨-, pre, post, rfl, hpre, hpost⟩ := hh
  refine ⟨hPx, pre ++ h :: post, [], rfl, fun y hy hPy => ?_, nofun⟩
  obtain hy | rfl | hy : y ∈ pre ∨ y = h ∨ y ∈ post := by simpa using hy
  · exact (hpre y hy hPy).trans hx
  · exact hx
  · exact (hpost y hy hPy).le.trans hx

/-- The search for the least urgent, when one more holder is looked at. -/
theorem State.leastUrgent_concat (hs : List Holder) (x : Holder) :
    s.leastUrgent (hs ++ [x]) = some ((s.leastUrgent hs).elim x fun b =>
      if (s.client b.client).priority ≤ (s.client x.client).priority then x else b) := by
  simp only [State.leastUrgent, List.foldl_append, List.foldl_cons, List.foldl_nil]
  split
  · next h => simp [h]
  · next b h => simp [h, apply_ite some]

variable [DecidablePred P]

/-- The search finds none where no holder has the property, else the least urgent of those that have it. -/
theorem State.leastUrgent_filter_spec (l : List Holder) :
    (s.leastUrgent (l.filter P) = none ∧ ∀ x ∈ l, ¬ P x) ∨
      ∃ b, s.leastUrgent (l.filter P) = some b ∧ LeastUrgentAmong s P l b := by
  induction l using List.reverseRecOn with
  | nil => exact .inl ⟨rfl, nofun⟩
  | append_singleton l x ih =>
    by_cases hx : P x
    · have hfilter : (l ++ [x]).filter P = l.filter P ++ [x] := by simp [hx]
      rw [hfilter, State.leastUrgent_concat]
      obtain ⟨hnone, hl⟩ | ⟨b, hsome, hb⟩ := ih
      · exact .inr ⟨x, by rw [hnone]; rfl, hx, l, [], rfl, fun y hy hPy => absurd hPy (hl y hy), nofun⟩
      · by_cases hle : (s.client b.client).priority ≤ (s.client x.client).priority
        · exact .inr ⟨x, by simp [hsome, hle], hb.concat_of_le hx hle⟩
        · exact .inr ⟨b, by simp [hsome, hle], hb.concat_of_lt fun _ => not_le.mp hle⟩
    · have hfilter : (l ++ [x]).filter P = l.filter P := by simp [hx]
      rw [hfilter]
      obtain ⟨hnone, hl⟩ | ⟨b, hsome, hb⟩ := ih
      · exact .inl ⟨hnone, by simpa [or_imp, forall_and] using ⟨hl, hx⟩⟩
      · exact .inr ⟨b, hsome, hb.concat_of_lt fun hPx => absurd hPx hx⟩

/-- R76: the search over the holders with a property finds the least urgent of them, the last of the list among equals. -/
theorem State.leastUrgent_filter_eq_some_iff :
    s.leastUrgent (l.filter P) = some h ↔ LeastUrgentAmong s P l h := by
  obtain ⟨hnone, hl⟩ | ⟨b, hsome, hb⟩ := State.leastUrgent_filter_spec (s := s) (P := P) l
  · rw [hnone]
    refine ⟨nofun, ?_⟩
    rintro ⟨hP, pre, post, rfl, -⟩
    exact absurd hP (hl h (by simp))
  · rw [hsome, Option.some_inj]
    exact ⟨fun e => e ▸ hb, fun hh => hb.unique hh⟩

end

/-! ### The designated holder, the blocking holders and the recall condition -/

section

variable {s : State} {r : Record} {w : Waiter} {h : Holder}

/-- The candidates of R76, as the model filters them. -/
theorem State.candidate_iff :
    ((s.slot h.client h.slot).leased && s.lessUrgent h w) = true ↔ Candidate s w h := by
  simp [Candidate, State.lessUrgent]

/-- R76: the designated holder is searched among the candidates that are RECALLED where there is one, else among all. -/
theorem State.designated_eq_leastUrgent (s : State) (r : Record) (w : Waiter) [DecidablePred (Preferred s r w)] :
    s.designated r w = s.leastUrgent (r.holders.filter (Preferred s r w)) := by
  unfold State.designated
  simp only [List.filter_filter]
  split
  · next hempty =>
    have hnone : ¬ ∃ x ∈ r.holders, Candidate s w x ∧ (s.slot x.client x.slot).isRecalled = true := by
      rintro ⟨x, hx, hc, hrec⟩
      have := List.filter_eq_nil_iff.mp (List.isEmpty_iff.mp hempty) x hx
      rw [State.candidate_iff.mpr hc, hrec] at this
      exact this rfl
    refine congrArg s.leastUrgent (List.filter_congr fun h _ => ?_)
    rw [Bool.eq_iff_iff, State.candidate_iff, decide_eq_true_iff]
    exact ⟨fun hc => ⟨hc, fun hex => absurd hex hnone⟩, And.left⟩
  · next hne =>
    have hex : ∃ x ∈ r.holders, Candidate s w x ∧ (s.slot x.client x.slot).isRecalled = true := by
      obtain ⟨x, hx⟩ := List.exists_mem_of_ne_nil _ (mt List.isEmpty_iff.mpr hne)
      obtain ⟨hmem, hx⟩ := List.mem_filter.mp hx
      obtain ⟨hrec, hc⟩ := Bool.and_eq_true_iff.mp hx
      exact ⟨x, hmem, State.candidate_iff.mp hc, hrec⟩
    refine congrArg s.leastUrgent (List.filter_congr fun h _ => ?_)
    rw [Bool.eq_iff_iff, Bool.and_eq_true_iff, State.candidate_iff, decide_eq_true_iff]
    exact ⟨fun ⟨hrec, hc⟩ => ⟨hc, fun _ => hrec⟩, fun ⟨hc, hrec⟩ => ⟨hrec hex, hc⟩⟩

/-- R76: the model's designated holder is the one of the rule. -/
theorem State.designated_eq_some_iff : s.designated r w = some h ↔ Designated s r w h := by
  classical
  rw [State.designated_eq_leastUrgent]
  exact State.leastUrgent_filter_eq_some_iff

/-- Table 5-1: the blocking holders by the head waiter's mode and the holders' modes. -/
theorem State.blocks_iff : s.blocks r w h = true ↔ Blocking s r w h := by
  unfold State.blocks Blocking
  cases hm : w.mode with
  | exclusive => simp
  | shared =>
    by_cases hx : ∃ x ∈ r.holders, x.mode = .exclusive
    · have hnot : ¬ ∀ x ∈ r.holders, x.mode ≠ .exclusive := fun hall => hx.elim fun x hx => hall x hx.1 hx.2
      simp [hx, hnot]
    · have hall : ∀ x ∈ r.holders, x.mode ≠ .exclusive := fun x hmem hmode => hx ⟨x, hmem, hmode⟩
      simpa [hx, State.designated_eq_some_iff] using fun _ => hall

/-- R74: the tested condition is that of the rule, clause by clause. -/
theorem State.recallCondition_iff : s.recallCondition r h = true ↔ RecallCondition s r h := by
  unfold State.recallCondition RecallCondition
  cases r.waiters with
  | nil => simp
  | cons w rest => simp [State.lessUrgent, State.blocks_iff, and_assoc]

end

/-- Settles O42, from the condition's clauses, Table 5-1 and the search for the designated holder. -/
theorem recallConditionClauses : Obligations.RecallConditionClauses :=
  fun _ _ _ _ => State.recallCondition_iff

/-! ### Evaluation of one holder -/

/-- What evaluation makes of a slot, the condition being decided: RECALLED until `due` (R79), HELD again (R80), or the same
(R78). -/
def Slot.afterEval (due : Deadline) : Slot → Bool → Slot
  | .held n m g lease, true => .recalled n m g lease due
  | .recalled n m g lease _, false => .held n m g lease
  | x, _ => x

/-- A GATING slot is left as it is (R78). -/
theorem Slot.afterEval_of_isGating (due : Deadline) {x : Slot} (hx : x.isGating = true) (b : Bool) :
    x.afterEval due b = x := by
  cases x with
  | gating => rfl
  | _ => cases hx

/-- The class in which a changed slot is posted, by what it became (R79, R80). -/
def Slot.changeClass (x : Slot) : EntryClass := if x.isRecalled then .urgent else .ordinary

section

variable (s : State) (grace : Half) (h : Holder) (b : Bool)

/-- R78: a slot that stays as it is leaves the state as it is; a slot that changes is written and posted. -/
theorem State.applyRecall_eq :
    s.applyRecall grace h b =
      if (s.slot h.client h.slot).afterEval (dueIn s grace) b = s.slot h.client h.slot then s
      else (s.setSlot h.client h.slot ((s.slot h.client h.slot).afterEval (dueIn s grace) b)).post h.client h.slot
        ((s.slot h.client h.slot).afterEval (dueIn s grace) b).changeClass := by
  unfold State.applyRecall
  cases s.slot h.client h.slot with
  | held | recalled => cases b <;> simp [Slot.afterEval, Slot.changeClass, Slot.isRecalled] <;> rfl
  | free | waiting | gating | ended => simp [Slot.afterEval]

/-- What evaluation of one holder makes of its own slot. -/
theorem State.slot_applyRecall_self :
    (s.applyRecall grace h b).slot h.client h.slot = (s.slot h.client h.slot).afterEval (dueIn s grace) b := by
  rw [s.applyRecall_eq]
  split
  · next hsame => exact hsame.symm
  · simp

/-- Evaluation of one holder leaves every other slot alone. -/
theorem State.slot_applyRecall_of_ne {c : ClientId} {i : SlotId} (hne : ¬ (h.client = c ∧ h.slot = i)) :
    (s.applyRecall grace h b).slot c i = s.slot c i := by
  rw [s.applyRecall_eq]
  split
  · rfl
  · simp [hne]

end

/-- What recall evaluation leaves alone: of each client all but its slots and its change queue, the directory, the channels and
the generation counter (R78). -/
structure RecallKept (s t : State) : Prop where
  client : ∀ c, t.client c = { s.client c with slots := (t.client c).slots, queue := (t.client c).queue }
  records : t.records = s.records
  channels : t.channels = s.channels
  generation : t.generation = s.generation

theorem RecallKept.refl (s : State) : RecallKept s s := ⟨fun _ => rfl, rfl, rfl, rfl⟩

theorem RecallKept.trans {s t u : State} (h : RecallKept s t) (k : RecallKept t u) : RecallKept s u where
  client c := by rw [k.client c, h.client c]
  records := k.records.trans h.records
  channels := k.channels.trans h.channels
  generation := k.generation.trans h.generation

theorem State.setSlot_recallKept (s : State) (c : ClientId) (i : SlotId) (x : Slot) : RecallKept s (s.setSlot c i x) where
  client d := by
    rw [s.client_setSlot]
    split
    · next e => subst e; rfl
    · rfl
  records := rfl
  channels := rfl
  generation := rfl

theorem State.post_recallKept (s : State) (c : ClientId) (i : SlotId) (k : EntryClass) : RecallKept s (s.post c i k) where
  client d := by
    unfold State.post
    rw [s.client_setQueue]
    split
    · next e => subst e; rfl
    · rfl
  records := rfl
  channels := rfl
  generation := rfl

theorem State.applyRecall_recallKept (s : State) (grace : Half) (h : Holder) (b : Bool) :
    RecallKept s (s.applyRecall grace h b) := by
  rw [s.applyRecall_eq]
  split
  · exact .refl s
  · exact (s.setSlot_recallKept _ _ _).trans (State.post_recallKept _ _ _ _)

/-! ### The postings of an evaluation -/

/-- The postings for the holders of a list whose slots the state `t` has changed, in the order of the list (R78 to R80). -/
def changePosts (s t : State) (hs : List Holder) : List (Holder × EntryClass) :=
  (hs.filter fun h => decide (t.slot h.client h.slot ≠ s.slot h.client h.slot)).map
    fun h => (h, (t.slot h.client h.slot).changeClass)

/-- A client's change queue after the postings of its own slots, one after the other (R105). -/
def queueAfter (posts : List (Holder × EntryClass)) (c : ClientId) (q : List Entry) : List Entry :=
  (posts.filter fun x => x.1.client == c).foldl (fun q x => postEntry x.1.slot x.2 q) q

theorem queueAfter_append (ps qs : List (Holder × EntryClass)) (c : ClientId) (q : List Entry) :
    queueAfter (ps ++ qs) c q = queueAfter qs c (queueAfter ps c q) := by
  simp [queueAfter]

/-- The holders posted stand in holder-list order. -/
theorem changePosts_sublist (s t : State) (hs : List Holder) : ((changePosts s t hs).map (·.1)).Sublist hs := by
  have hfst : (changePosts s t hs).map (·.1) =
      hs.filter fun h => decide (t.slot h.client h.slot ≠ s.slot h.client h.slot) := by
    simp [changePosts, Function.comp_def]
  exact hfst ▸ List.filter_sublist

/-- A posting is that of a listed holder whose slot has changed, in the class of what it became. -/
theorem mem_changePosts {s t : State} {hs : List Holder} {x : Holder × EntryClass} :
    x ∈ changePosts s t hs ↔ x.1 ∈ hs ∧ t.slot x.1.client x.1.slot ≠ s.slot x.1.client x.1.slot ∧
      x.2 = (t.slot x.1.client x.1.slot).changeClass := by
  obtain ⟨h, k⟩ := x
  simp only [changePosts, List.mem_map, List.mem_filter, decide_eq_true_iff, Prod.mk.injEq]
  constructor
  · rintro ⟨_, ⟨hmem, hne⟩, rfl, rfl⟩
    exact ⟨hmem, hne, rfl⟩
  · rintro ⟨hmem, hne, rfl⟩
    exact ⟨h, ⟨hmem, hne⟩, rfl, rfl⟩

/-- The postings depend on the two states through the listed holders' slots alone. -/
theorem changePosts_congr {s s' t t' : State} {hs : List Holder}
    (h : ∀ x ∈ hs, s.slot x.client x.slot = s'.slot x.client x.slot)
    (k : ∀ x ∈ hs, t.slot x.client x.slot = t'.slot x.client x.slot) : changePosts s t hs = changePosts s' t' hs := by
  unfold changePosts
  rw [List.filter_congr (q := fun x => decide (t'.slot x.client x.slot ≠ s'.slot x.client x.slot))
    fun x hx => by rw [h x hx, k x hx]]
  exact List.map_congr_left fun x hx => by rw [k x (List.mem_of_mem_filter hx)]

theorem changePosts_cons (s t : State) (h : Holder) (hs : List Holder) :
    changePosts s t (h :: hs) = changePosts s t [h] ++ changePosts s t hs := by
  simp only [changePosts, ← List.map_append, ← List.filter_append, List.singleton_append]

/-- Evaluation of one holder posts its change. -/
theorem State.queue_applyRecall (s : State) (grace : Half) (h : Holder) (b : Bool) (c : ClientId) :
    ((s.applyRecall grace h b).client c).queue =
      queueAfter (changePosts s (s.applyRecall grace h b) [h]) c (s.client c).queue := by
  have hslot := s.slot_applyRecall_self grace h b
  by_cases hsame : (s.slot h.client h.slot).afterEval (dueIn s grace) b = s.slot h.client h.slot
  · have hposts : changePosts s (s.applyRecall grace h b) [h] = [] := by simp [changePosts, hslot, hsame]
    rw [hposts, s.applyRecall_eq, if_pos hsame]
    rfl
  · have hposts : changePosts s (s.applyRecall grace h b) [h] =
        [(h, ((s.slot h.client h.slot).afterEval (dueIn s grace) b).changeClass)] := by
      simp [changePosts, hslot, hsame]
    rw [hposts, s.applyRecall_eq, if_neg hsame, State.post, State.client_setQueue]
    by_cases hc : h.client = c
    · simp [queueAfter, hc]
    · simp [queueAfter, hc]

/-! ### Evaluation of the holders one after the other -/

/-- Some holders evaluated one after the other, the condition being decided for each by `f`. -/
def State.recallEach (s : State) (grace : Half) (f : Holder → Bool) (hs : List Holder) : State :=
  hs.foldl (fun t h => t.applyRecall grace h (f h)) s

/-- R77 and R78: evaluation decides by the condition in the state before it. -/
theorem State.evalRecall_eq {s : State} {n : Name} {r : Record} (hr : s.find n = some r) :
    s.evalRecall n = s.recallEach r.recallGrace (s.recallCondition r) r.holders := by
  simp only [State.evalRecall, hr, List.foldl_map]
  rfl

/-- The place of a holder's slot: its client and its number. -/
def Holder.place (h : Holder) : ClientId × SlotId := (h.client, h.slot)

section

variable (s : State) (grace : Half) (f : Holder → Bool) {hs : List Holder}

theorem State.recallEach_cons (h : Holder) (hs : List Holder) :
    s.recallEach grace f (h :: hs) = (s.applyRecall grace h (f h)).recallEach grace f hs := rfl

theorem State.recallEach_recallKept (hs : List Holder) : RecallKept s (s.recallEach grace f hs) := by
  induction hs generalizing s with
  | nil => exact .refl s
  | cons h hs ih => exact (s.applyRecall_recallKept grace h (f h)).trans (ih _)

/-- A slot that is none of the holders' is left alone. -/
theorem State.slot_recallEach_of_not_mem {c : ClientId} {i : SlotId} (hci : (c, i) ∉ hs.map Holder.place) :
    (s.recallEach grace f hs).slot c i = s.slot c i := by
  induction hs generalizing s with
  | nil => rfl
  | cons h hs ih =>
    rw [List.map_cons, List.mem_cons, not_or] at hci
    obtain ⟨hne, htail⟩ := hci
    rw [s.recallEach_cons, ih _ htail, s.slot_applyRecall_of_ne]
    rintro ⟨rfl, rfl⟩
    exact hne rfl

/-- Each of some holders of distinct slots is evaluated once, from its slot in the state before. -/
theorem State.slot_recallEach_of_mem (hnd : (hs.map Holder.place).Nodup) {h : Holder} (hh : h ∈ hs) :
    (s.recallEach grace f hs).slot h.client h.slot = (s.slot h.client h.slot).afterEval (dueIn s grace) (f h) := by
  induction hs generalizing s with
  | nil => cases hh
  | cons x hs ih =>
    obtain ⟨hx, hnd⟩ := List.nodup_cons.mp (List.map_cons ▸ hnd)
    have hdue : dueIn (s.applyRecall grace x (f x)) grace = dueIn s grace := by
      simp only [dueIn, (s.applyRecall_tablesOnly grace x (f x)).clock]
    rw [s.recallEach_cons]
    obtain rfl | hh := List.mem_cons.mp hh
    · rw [State.slot_recallEach_of_not_mem _ grace f hx, s.slot_applyRecall_self]
    · have hne : ¬ (x.client = h.client ∧ x.slot = h.slot) := fun ⟨hc, hi⟩ =>
        hx (List.mem_map.mpr ⟨h, hh, Prod.ext hc.symm hi.symm⟩)
      rw [ih _ hnd hh, hdue, s.slot_applyRecall_of_ne grace x (f x) hne]

/-- The postings of some holders of distinct slots join their clients' change queues in the order of the list. -/
theorem State.queue_recallEach (hnd : (hs.map Holder.place).Nodup) (c : ClientId) :
    ((s.recallEach grace f hs).client c).queue =
      queueAfter (changePosts s (s.recallEach grace f hs) hs) c (s.client c).queue := by
  induction hs generalizing s with
  | nil => rfl
  | cons h hs ih =>
    obtain ⟨hh, hnd⟩ := List.nodup_cons.mp (List.map_cons ▸ hnd)
    have hhead : changePosts s ((s.applyRecall grace h (f h)).recallEach grace f hs) [h] =
        changePosts s (s.applyRecall grace h (f h)) [h] :=
      changePosts_congr (fun _ _ => rfl) fun x hx => by
        obtain rfl := List.mem_singleton.mp hx
        exact State.slot_recallEach_of_not_mem _ grace f hh
    have htail : changePosts (s.applyRecall grace h (f h)) ((s.applyRecall grace h (f h)).recallEach grace f hs) hs =
        changePosts s ((s.applyRecall grace h (f h)).recallEach grace f hs) hs :=
      changePosts_congr (fun x hx => s.slot_applyRecall_of_ne grace h (f h) fun ⟨hc, hi⟩ =>
        hh (List.mem_map.mpr ⟨x, hx, Prod.ext hc.symm hi.symm⟩)) fun _ _ => rfl
    rw [s.recallEach_cons, ih _ hnd, changePosts_cons, queueAfter_append, hhead, htail, s.queue_applyRecall]

end

/-! ### Recall evaluation of a resource -/

section

variable {s : State} {n : Name} {r : Record}

/-- No slot stands twice in a holder list of the directory (R29). -/
theorem holderPlaces_nodup (hl : ListsBacked s) (hr : s.find n = some r) : (r.holders.map Holder.place).Nodup := by
  obtain ⟨-, -, -, hnd⟩ := hl r (List.mem_of_find?_eq_some hr)
  exact hnd

/-- R78: every holder's slot as evaluation leaves it, by the condition in the state before. -/
theorem State.slot_evalRecall (hl : ListsBacked s) (hr : s.find n = some r) {h : Holder} (hh : h ∈ r.holders) :
    (s.evalRecall n).slot h.client h.slot =
      (s.slot h.client h.slot).afterEval (dueIn s r.recallGrace) (s.recallCondition r h) := by
  rw [State.evalRecall_eq hr]
  exact s.slot_recallEach_of_mem r.recallGrace (s.recallCondition r) (holderPlaces_nodup hl hr) hh

/-- A slot that is no holder's is left alone. -/
theorem State.slot_evalRecall_of_not_holder (hr : s.find n = some r) {c : ClientId} {i : SlotId}
    (hci : ∀ h ∈ r.holders, ¬ (h.client = c ∧ h.slot = i)) : (s.evalRecall n).slot c i = s.slot c i := by
  rw [State.evalRecall_eq hr]
  refine s.slot_recallEach_of_not_mem r.recallGrace (s.recallCondition r) fun hmem => ?_
  obtain ⟨h, hh, hplace⟩ := List.mem_map.mp hmem
  exact hci h hh (Prod.mk.inj hplace)

/-- Every client's change queue, after the postings of the slots that evaluation changed. -/
theorem State.queue_evalRecall (hl : ListsBacked s) (hr : s.find n = some r) (c : ClientId) :
    ((s.evalRecall n).client c).queue =
      queueAfter (changePosts s (s.evalRecall n) r.holders) c (s.client c).queue := by
  rw [State.evalRecall_eq hr]
  exact s.queue_recallEach r.recallGrace (s.recallCondition r) (holderPlaces_nodup hl hr) c

theorem State.evalRecall_recallKept (hr : s.find n = some r) : RecallKept s (s.evalRecall n) := by
  rw [State.evalRecall_eq hr]
  exact s.recallEach_recallKept r.recallGrace (s.recallCondition r) r.holders

end

/-- Settles O43, from what evaluation makes of each holder's slot, its postings, and what it keeps. -/
theorem recallEvaluationDecidesEachHolder : Obligations.RecallEvaluationDecidesEachHolder := by
  intro s n r hl _ hr
  have hkept := State.evalRecall_recallKept hr
  have houtside := s.evalRecall_tablesOnly n
  refine ⟨fun h hh => ?_, fun c i => State.slot_evalRecall_of_not_holder hr,
    ⟨changePosts s (s.evalRecall n) r.holders, changePosts_sublist _ _ _, fun x hx => (mem_changePosts.mp hx).2.1,
      fun h hh hne => mem_changePosts.mpr ⟨hh, hne, rfl⟩, State.queue_evalRecall hl hr⟩,
    hkept.client, hkept.records, hkept.channels, hkept.generation,
    houtside.ports, houtside.clock, houtside.inReset, houtside.pending⟩
  have htrue (hc : RecallCondition s r h) : s.recallCondition r h = true := State.recallCondition_iff.mpr hc
  have hfalse (hc : ¬ RecallCondition s r h) : s.recallCondition r h = false :=
    Bool.eq_false_iff.mpr (mt State.recallCondition_iff.mp hc)
  rw [State.slot_evalRecall hl hr hh]
  refine ⟨fun a b g l hx hc => ?_, fun a b g l d hx hc => ?_, fun a b g l hx hc => ?_, fun a b g l d hx hc => ?_,
    fun hx => Slot.afterEval_of_isGating _ hx _⟩
  · rw [hx, htrue hc]; rfl
  · rw [hx, hfalse hc]; rfl
  · rw [hx, hfalse hc]; rfl
  · rw [hx, htrue hc]; rfl

end Sys2Proof.Machine
end

section
/-! PROOFS. Change queues (R104, R105), FETCH (R110), and the reports SLOT_READ, CHECK and QUERY (R112, R119, R121). -/

namespace Sys2Proof.Machine

open Sys2Proof.Claims Sys2Proof.Safety

/-! ### The places of entries in a change queue -/

section

variable {i : SlotId} {cls : EntryClass} {q : List Entry} {e : Entry}

/-- R105: in a queue with the urgent entries first, a new urgent entry goes between the two parts. -/
theorem insertUrgent_eq (i : SlotId) (hq : q.Pairwise (fun a b => b.cls = .urgent → a.cls = .urgent)) :
    insertUrgent i q =
      q.filter (fun e => e.cls == .urgent) ++ ⟨i, .urgent⟩ :: q.filter (fun e => e.cls == .ordinary) := by
  induction q with
  | nil => rfl
  | cons e q ih =>
    obtain ⟨he, hq⟩ := List.pairwise_cons.mp hq
    cases hcls : e.cls with
    | urgent => simp [insertUrgent, hcls, ih hq]
    | ordinary =>
      have hord : ∀ x ∈ q, x.cls = .ordinary := fun x hx => by
        cases hx' : x.cls with
        | urgent => exact absurd (hcls.symm.trans (he x hx hx')) (by decide)
        | ordinary => rfl
      have hnone : q.filter (fun x => x.cls == .urgent) = [] :=
        List.filter_eq_nil_iff.mpr fun x hx => by simp [hord x hx]
      have hall : q.filter (fun x => x.cls == .ordinary) = q :=
        List.filter_eq_self.mpr fun x hx => by simp [hord x hx]
      simp [insertUrgent, hcls, hnone, hall]

/-- The new entry is in the queue. -/
theorem mem_insertUrgent (i : SlotId) (q : List Entry) : (⟨i, .urgent⟩ : Entry) ∈ insertUrgent i q := by
  induction q with
  | nil => exact List.mem_cons_self
  | cons e q ih =>
    unfold insertUrgent
    split
    · exact List.mem_cons_of_mem _ ih
    · exact List.mem_cons_self

/-- Two entries of one slot are one entry (R104). -/
theorem entry_eq_of_slot_eq (hq : (q.map (·.slot)).Nodup) {a b : Entry} (ha : a ∈ q) (hb : b ∈ q)
    (h : a.slot = b.slot) : a = b :=
  List.inj_on_of_nodup_map hq ha hb h

/-- A slot's entry is the one found (R104). -/
theorem find_entry_of_mem (hq : (q.map (·.slot)).Nodup) (he : e ∈ q) :
    q.find? (fun x => x.slot == e.slot) = some e := by
  obtain ⟨a, ha⟩ := Option.isSome_iff_exists.mp
    (List.find?_isSome.mpr ⟨e, he, beq_self_eq_true e.slot⟩ : (q.find? fun x => x.slot == e.slot).isSome)
  have hslot : a.slot = e.slot := by simpa using List.find?_some ha
  rw [ha, entry_eq_of_slot_eq hq (List.mem_of_find?_eq_some ha) he hslot]

/-! ### The effect of a posting, by the entry that the slot already has (R105) -/

theorem find_entry_of_absent (h : ∀ e ∈ q, e.slot ≠ i) : q.find? (fun e => e.slot == i) = none := by
  simpa using h

theorem postEntry_urgent_of_absent (h : ∀ e ∈ q, e.slot ≠ i) : postEntry i .urgent q = insertUrgent i q := by
  unfold postEntry
  rw [find_entry_of_absent h]

theorem postEntry_ordinary_of_absent (h : ∀ e ∈ q, e.slot ≠ i) : postEntry i .ordinary q = q ++ [⟨i, .ordinary⟩] := by
  unfold postEntry
  rw [find_entry_of_absent h]

theorem postEntry_of_urgent (hq : (q.map (·.slot)).Nodup) (h : (⟨i, .urgent⟩ : Entry) ∈ q) : postEntry i cls q = q := by
  unfold postEntry
  rw [find_entry_of_mem hq h]

theorem postEntry_urgent_of_ordinary (hq : (q.map (·.slot)).Nodup) (h : (⟨i, .ordinary⟩ : Entry) ∈ q) :
    postEntry i .urgent q = insertUrgent i (removeEntry i q) := by
  unfold postEntry
  rw [find_entry_of_mem hq h]

theorem postEntry_ordinary_of_ordinary (hq : (q.map (·.slot)).Nodup) (h : (⟨i, .ordinary⟩ : Entry) ∈ q) :
    postEntry i .ordinary q = q := by
  unfold postEntry
  rw [find_entry_of_mem hq h]

/-- A slot posted has an entry, in any queue. -/
theorem exists_mem_postEntry (i : SlotId) (cls : EntryClass) (q : List Entry) :
    ∃ e ∈ postEntry i cls q, e.slot = i := by
  have hfound {a : Entry} (ha : q.find? (fun e => e.slot == i) = some a) : ∃ e ∈ q, e.slot = i :=
    ⟨a, List.mem_of_find?_eq_some ha, by simpa using List.find?_some ha⟩
  unfold postEntry
  split
  · exact ⟨_, mem_insertUrgent i q, rfl⟩
  · exact ⟨⟨i, .ordinary⟩, by simp, rfl⟩
  · next ha => exact hfound ha
  · exact ⟨_, mem_insertUrgent i _, rfl⟩
  · next ha => exact hfound ha

/-- Removing a slot's ordinary entry leaves the urgent part as it is. -/
theorem filter_urgent_removeEntry (hq : (q.map (·.slot)).Nodup) (h : (⟨i, .ordinary⟩ : Entry) ∈ q) :
    (removeEntry i q).filter (fun e => e.cls == .urgent) = q.filter (fun e => e.cls == .urgent) := by
  rw [removeEntry, List.filter_filter]
  refine List.filter_congr fun e he => ?_
  by_cases hi : e.slot = i
  · simp [entry_eq_of_slot_eq hq he h hi]
  · simp [hi]

/-- R105: an ordinary entry posted urgent moves to the end of the urgent part, and no other entry moves. -/
theorem insertUrgent_removeEntry (hq : (q.map (·.slot)).Nodup)
    (hp : q.Pairwise (fun a b => b.cls = .urgent → a.cls = .urgent)) (h : (⟨i, .ordinary⟩ : Entry) ∈ q) :
    insertUrgent i (removeEntry i q) =
      q.filter (fun e => e.cls == .urgent) ++
        ⟨i, .urgent⟩ :: q.filter (fun e => e.cls == .ordinary && e.slot != i) := by
  have hpart : (removeEntry i q).Pairwise (fun a b => b.cls = .urgent → a.cls = .urgent) := hp.filter _
  rw [insertUrgent_eq i hpart, filter_urgent_removeEntry hq h, removeEntry, List.filter_filter]

end

/-! ### A posting to a client's queue -/

/-- The changed mark shows an entry of the slot (R104). -/
theorem State.changedMark_iff (s : State) (c : ClientId) (i : SlotId) :
    s.changedMark c i = true ↔ ∃ e ∈ (s.client c).queue, e.slot = i := by
  simp [State.changedMark]

/-- A posting changes its client's queue by the entry posted. -/
@[simp] theorem State.queue_post (s : State) (c : ClientId) (i : SlotId) (cls : EntryClass) :
    ((s.post c i cls).client c).queue = postEntry i cls (s.client c).queue := by
  simp [State.post]

/-- Settles O46, from what a posting makes of a queue by the entry that the slot already has. -/
theorem postingByEntry : Obligations.PostingByEntry := by
  intro s c i cls hl
  obtain ⟨hnd, hurgent, -⟩ := hl c
  dsimp only
  rw [State.changedMark_iff, State.queue_post]
  refine ⟨rfl, exists_mem_postEntry i cls _, ?_, ?_, postEntry_of_urgent hnd, ?_, ?_⟩
  · rintro hnew rfl
    rw [postEntry_urgent_of_absent hnew, insertUrgent_eq i hurgent]
  · rintro hnew rfl
    exact postEntry_ordinary_of_absent hnew
  · rintro hord rfl
    rw [postEntry_urgent_of_ordinary hnd hord, insertUrgent_removeEntry hnd hurgent hord]
  · rintro hord rfl
    exact postEntry_ordinary_of_ordinary hnd hord

/-! ### A request classed new, carried out at the end of its frame -/

/-- A command that ends a frame with a request classed new, where the carrying out is known. -/
theorem exec_of_carryNew {s t : State} {cmd : Instr} {p : Port} {r : Request} {st : Status} {pl : Payload}
    (hcmd : exec cmd s = .next (s.requestFrame p r .atFrameEnd)) (hn : New s p r)
    (hkind : bodyKind r.body = .openClient → bodyTakeover r.body = true)
    (hc : carryNew p r.header.client r.body s = (t, st, pl)) : exec cmd s = .next (completed t p r st pl) := by
  rw [hcmd, requestFrame_new hn hkind hc]

/-! ### FETCH -/

section

variable {s : State} {c : ClientId} {e : Entry} {rest : List Entry}

/-- R110: an empty queue. -/
theorem carryFetch_of_nil (hq : (s.client c).queue = []) : carryFetch c s = (s, .empty, .nothing) := by
  unfold carryFetch
  rw [hq]
  rfl

/-- The slot of the head entry has its mark (R104). -/
theorem State.changedMark_head (hq : (s.client c).queue = e :: rest) : s.changedMark c e.slot = true :=
  (s.changedMark_iff c e.slot).mpr ⟨e, hq ▸ List.mem_cons_self, rfl⟩

/-- R110: the head entry is removed, and its slot freed where it is ENDED. -/
theorem carryFetch_of_cons (hq : (s.client c).queue = e :: rest) :
    carryFetch c s =
      (if (s.slot c e.slot).isEnded then (s.setQueue c rest).setSlot c e.slot .free else s.setQueue c rest, .ok,
        .fetched (viewOf e.slot true (s.slot c e.slot)) rest.length) := by
  have hview : s.viewSlot c e.slot = viewOf e.slot true (s.slot c e.slot) := by
    rw [State.viewSlot, State.changedMark_head hq]
  unfold carryFetch
  simp only [hq, hview]
  cases s.slot c e.slot with
  | ended n m g cause => rfl
  | free | waiting | gating | held | recalled => rfl

/-- No other entry of the head entry's slot follows it (R104). -/
theorem slot_ne_head_of_lawful (hl : ChangeQueuesLawful s) (hq : (s.client c).queue = e :: rest) :
    ∀ x ∈ rest, x.slot ≠ e.slot := by
  obtain ⟨hnd, -⟩ := hl c
  rw [hq, List.map_cons, List.nodup_cons] at hnd
  obtain ⟨hhead, -⟩ := hnd
  exact fun x hx hslot => hhead (hslot ▸ List.mem_map_of_mem hx)

/-- A queue has at most an entry for each slot (R104). -/
theorem queue_length_le_of_lawful (hl : ChangeQueuesLawful s) (c : ClientId) : (s.client c).queue.length ≤ 8 := by
  obtain ⟨hnd, -⟩ := hl c
  simpa using hnd.length_le_card

end

/-- Settles O47, from the carrying out by the queue's head and the law of change queues. -/
theorem fetchTakesTheHeadEntry : Obligations.FetchTakesTheHeadEntry := by
  intro s p h hn
  refine ⟨fun hq => exec_of_carryNew rfl hn nofun (carryFetch_of_nil hq), fun e rest hq => ⟨?_, ?_, ?_, ?_⟩⟩
  · intro hend
    exact exec_of_carryNew rfl hn nofun ((carryFetch_of_cons hq).trans (by rw [if_pos hend]; rfl))
  · intro hend
    exact exec_of_carryNew rfl hn nofun ((carryFetch_of_cons hq).trans (by rw [hend]; rfl))
  · intro hl
    have hlen := queue_length_le_of_lawful hl h.client
    rw [hq, List.length_cons] at hlen
    exact ⟨Nat.le_of_succ_le_succ hlen, slot_ne_head_of_lawful hl hq⟩
  · intro hmarked
    obtain ⟨-, hentry⟩ := hmarked h.client
    exact hentry e.slot (State.changedMark_head hq)

/-! ### SLOT_READ -/

/-- R112: a slot byte above 7. -/
theorem carrySlotRead_of_slot_above {slot : Byte} (s : State) (c : ClientId) (h : 7 < slot.toNat) :
    carrySlotRead c slot s = (s, .badParam, .nothing) := by
  unfold carrySlotRead
  rw [(slotOf_eq_none_iff slot).mpr h]
  rfl

/-- R112: the view of the slot with its changed mark, in any state. -/
theorem carrySlotRead_of_slot {s : State} {c : ClientId} {slot : Byte} {i : SlotId} {mark : Bool}
    (hi : slot.toNat = i.val) (hmark : mark = true ↔ ∃ e ∈ (s.client c).queue, e.slot = i) :
    carrySlotRead c slot s = (s, .ok, .slotView (viewOf i mark (s.slot c i))) := by
  have hm : s.changedMark c i = mark := Bool.eq_iff_iff.mpr ((s.changedMark_iff c i).trans hmark.symm)
  unfold carrySlotRead
  rw [(slotOf_eq_some_iff slot i).mpr hi, ← hm]
  rfl

/-! ### CHECK -/

/-- A holding slot's generation is the third of what it holds (R29). -/
theorem Slot.holdingGen_of_holding {x : Slot} {n : Name} {m : Mode} {g : Gen} (h : x.holding = some (n, m, g)) :
    x.holdingGen = some g := by
  cases x with
  | gating | held | recalled =>
    simp only [Slot.holding, Option.some.injEq, Prod.mk.injEq] at h
    obtain ⟨-, -, rfl⟩ := h
    rfl
  | free | waiting | ended => cases h

/-- The holder that CHECK finds carries the generation in a HELD or RECALLED slot (R119). -/
theorem State.validHolder_some {s : State} {r : Record} {g : Gen} {y : Holder} (h : s.validHolder r g = some y) :
    y ∈ r.holders ∧ y.generation = g ∧ (s.slot y.client y.slot).leased = true := by
  have hy := List.find?_some h
  simp only [Bool.and_eq_true, beq_iff_eq] at hy
  exact ⟨List.mem_of_find?_eq_some h, hy⟩

/-- CHECK finds no holder exactly where no HELD or RECALLED one carries the generation (R119). -/
theorem State.validHolder_eq_none_iff (s : State) (r : Record) (g : Gen) :
    s.validHolder r g = none ↔ ∀ x ∈ r.holders, x.generation = g → (s.slot x.client x.slot).leased = false := by
  simp [State.validHolder]

/-- The one holder that carries the generation is found, where its slot is HELD or RECALLED (R119). -/
theorem State.validHolder_eq_some {s : State} {r : Record} {g : Gen} {x : Holder} (hx : x ∈ r.holders)
    (hg : x.generation = g) (hl : (s.slot x.client x.slot).leased = true)
    (huniq : ∀ y ∈ r.holders, y.generation = g → y = x) : s.validHolder r g = some x := by
  cases hv : s.validHolder r g with
  | none => simp [(s.validHolder_eq_none_iff r g).mp hv x hx hg] at hl
  | some y =>
    obtain ⟨hy, hyg, -⟩ := State.validHolder_some hv
    rw [huniq y hy hyg]

/-- R116: no two holders of a record carry one generation. -/
theorem holder_eq_of_generation_eq {s : State} {r : Record} {x y : Holder} (hb : ListsBacked s)
    (hd : GenerationsDistinct s) (hr : r ∈ s.records) (hx : x ∈ r.holders) (hy : y ∈ r.holders)
    (hg : x.generation = y.generation) : y = x := by
  obtain ⟨-, hholding, -⟩ := hb r hr
  have hslotx := hholding x hx
  have hsloty := hholding y hy
  obtain ⟨-, hone⟩ := hd x.client x.slot _ hslotx
  obtain ⟨hc, hi⟩ := hone y.client y.slot (Slot.holdingGen_of_holding (hg ▸ hsloty))
  rw [hc, hi, hsloty, Option.some.injEq, Prod.mk.injEq, Prod.mk.injEq] at hslotx
  obtain ⟨-, hm, -⟩ := hslotx
  cases x
  cases y
  cases hc
  cases hi
  cases hm
  cases hg
  rfl

section

variable {s : State} {n : Name} {g : Gen} {r : Record}

/-- R119: the name 0. -/
theorem carryCheck_of_zero (hn : n = 0#16) : carryCheck n g s = (s, .badParam, .nothing) := if_pos hn

/-- R119: no record of the name. -/
theorem carryCheck_of_absent (hn : n ≠ 0#16) (hr : s.find n = none) :
    carryCheck n g s = (s, .noResource, .nothing) := by
  unfold carryCheck
  rw [if_neg hn, hr]
  rfl

/-- R119: a holder found. -/
theorem carryCheck_of_valid {x : Holder} (hn : n ≠ 0#16) (hr : s.find n = some r)
    (hx : s.validHolder r g = some x) : carryCheck n g s = (s, .valid, .valid x.client x.slot x.mode) := by
  unfold carryCheck
  simp only [if_neg hn, hr, hx]

/-- R119: no holder found. -/
theorem carryCheck_of_stale (hn : n ≠ 0#16) (hr : s.find n = some r) (hx : s.validHolder r g = none) :
    carryCheck n g s = (s, .stale, .nothing) := by
  unfold carryCheck
  simp only [if_neg hn, hr, hx]
  rfl

/-! ### QUERY -/

/-- R121: the name 0. -/
theorem carryQuery_of_zero (hn : n = 0#16) : carryQuery n s = (s, .badParam, .nothing) := if_pos hn

/-- R121: no record of the name. -/
theorem carryQuery_of_absent (hn : n ≠ 0#16) (hr : s.find n = none) :
    carryQuery n s = (s, .noResource, .nothing) := by
  unfold carryQuery
  rw [if_neg hn, hr]
  rfl

/-- R121: the view of the record. -/
theorem carryQuery_of_found (hn : n ≠ 0#16) (hr : s.find n = some r) :
    carryQuery n s = (s, .ok, .resourceView (s.viewRecord r)) := by
  unfold carryQuery
  rw [if_neg hn, hr]

/-- The gate that a view reports: the record's channel with its dead time (Table 8-1). -/
theorem State.gate_viewRecord {gate : Option (ChannelId × Half)} (hnone : r.gate = none → gate = none)
    (hsome : ∀ ch, r.gate = some ch → ∃ d, (s.channel ch).deadTime = some d ∧ gate = some (ch, d)) :
    (s.viewRecord r).gate = gate := by
  unfold State.viewRecord
  cases hg : r.gate with
  | none => simp [hnone hg]
  | some ch =>
    obtain ⟨d, hd, rfl⟩ := hsome ch hg
    simp [State.deadTimeOf, hd]

end

/-- Settles O48, from what each of the three reports answers; each leaves the tables as they are. -/
theorem reportsChangeNothing : Obligations.ReportsChangeNothing := by
  refine ⟨fun s p h slot hn => ⟨fun hslot => ?_, fun i hi mark hmark => ?_⟩,
    fun s p h n g hn => ⟨fun h0 => ?_, fun h0 hr => ?_, fun r h0 hr => ⟨?_, fun hstale => ?_, ?_⟩⟩,
    fun s p h n hn => ⟨fun h0 => ?_, fun h0 hr => ?_, fun r h0 hr gate hnone hsome => ?_⟩⟩
  · exact exec_of_carryNew rfl hn nofun (carrySlotRead_of_slot_above s _ hslot)
  · exact exec_of_carryNew rfl hn nofun (carrySlotRead_of_slot hi hmark)
  · exact exec_of_carryNew rfl hn nofun (carryCheck_of_zero h0)
  · exact exec_of_carryNew rfl hn nofun (carryCheck_of_absent h0 hr)
  · exact fun x hx hg hl huniq =>
      exec_of_carryNew rfl hn nofun (carryCheck_of_valid h0 hr (State.validHolder_eq_some hx hg hl huniq))
  · exact exec_of_carryNew rfl hn nofun (carryCheck_of_stale h0 hr ((s.validHolder_eq_none_iff r g).mpr hstale))
  · exact fun hb hd hmem x hx y hy => holder_eq_of_generation_eq hb hd hmem hx hy
  · exact exec_of_carryNew rfl hn nofun (carryQuery_of_zero h0)
  · exact exec_of_carryNew rfl hn nofun (carryQuery_of_absent h0 hr)
  · rw [← State.gate_viewRecord hnone hsome, ← State.find_name hr]
    exact exec_of_carryNew rfl (State.find_name hr ▸ hn) nofun
      (carryQuery_of_found (State.find_name hr ▸ h0) (State.find_name hr ▸ hr))

end Sys2Proof.Machine
end

section
/-! PROOFS. The names that DIRECTORY pages (R123) and the seed of the generation counter (R117). -/

namespace Sys2Proof.Machine

open Sys2Proof.Claims Sys2Proof.Safety

/-! ### DIRECTORY -/

section

variable {s : State} {start n m : Name}

/-- A name is listed exactly where it is at or above the starting name and a record carries it (R123). -/
theorem State.mem_namesFrom_iff : n ∈ s.namesFrom start ↔ start.toNat ≤ n.toNat ∧ ∃ r ∈ s.records, r.name = n := by
  simp only [State.namesFrom, List.mem_filter, List.mem_map, decide_eq_true_eq, and_comm]

/-- The listed names ascend, as the directory's records do (R4). -/
theorem State.namesFrom_pairwise (hdir : DirectoryLawful s) (start : Name) :
    (s.namesFrom start).Pairwise (fun a b => a.toNat < b.toNat) := by
  obtain ⟨hascending, -⟩ := hdir
  have hnames : (s.records.map (·.name)).Pairwise (fun a b => a.toNat < b.toNat) := List.pairwise_map.mpr hascending
  exact hnames.filter _

/-- A listed name that is not on a page of the first `k` follows it. -/
theorem State.mem_drop_namesFrom {k : Nat} (hn : n ∈ s.namesFrom start) (hpage : n ∉ (s.namesFrom start).take k) :
    n ∈ (s.namesFrom start).drop k := by
  rw [← List.take_append_drop k (s.namesFrom start), List.mem_append] at hn
  exact hn.resolve_left hpage

/-- The names that follow a page of the first `k` lie above all names of the page. -/
theorem State.namesFrom_lt_of_mem_take_of_mem_drop {k : Nat} (hdir : DirectoryLawful s) (hm : m ∈ (s.namesFrom start).take k)
    (hn : n ∈ (s.namesFrom start).drop k) : m.toNat < n.toNat := by
  have hsorted := State.namesFrom_pairwise hdir start
  rw [← List.take_append_drop k (s.namesFrom start)] at hsorted
  obtain ⟨-, -, habove⟩ := List.pairwise_append.mp hsorted
  exact habove m hm n hn

/-- Where a name follows a page of the first `k`, more than `k` are listed. -/
theorem State.namesFrom_length_gt_of_mem_drop {k : Nat} (hn : n ∈ (s.namesFrom start).drop k) :
    k < (s.namesFrom start).length := by
  have hpos := List.length_pos_of_mem hn
  rw [List.length_drop] at hpos
  exact Nat.lt_of_sub_pos hpos

/-- More names follow a page of the first `k`, `k` not 0, exactly where a record's name lies above the names of a page that is
not empty (R123). -/
theorem State.namesFrom_length_gt_iff {k : Nat} (hk : 0 < k) (hdir : DirectoryLawful s) :
    k < (s.namesFrom start).length ↔ (s.namesFrom start).take k ≠ [] ∧
      ∃ r ∈ s.records, ∀ n ∈ (s.namesFrom start).take k, n.toNat < r.name.toNat := by
  constructor
  · intro hlen
    have hnext : (s.namesFrom start)[k] ∈ (s.namesFrom start).drop k := by
      rw [List.drop_eq_getElem_cons hlen]
      exact List.mem_cons_self
    obtain ⟨-, r, hr, hname⟩ := State.mem_namesFrom_iff.mp (List.mem_of_mem_drop hnext)
    refine ⟨List.ne_nil_of_length_pos (by rw [List.length_take]; omega), r, hr, fun n hn => ?_⟩
    rw [hname]
    exact State.namesFrom_lt_of_mem_take_of_mem_drop hdir hn hnext
  · rintro ⟨hpage, r, hr, habove⟩
    obtain ⟨n, hn⟩ := List.exists_mem_of_ne_nil _ hpage
    obtain ⟨hstart, -⟩ := State.mem_namesFrom_iff.mp (List.mem_of_mem_take hn)
    have hlisted := State.mem_namesFrom_iff.mpr ⟨hstart.trans (habove n hn).le, r, hr, rfl⟩
    exact State.namesFrom_length_gt_of_mem_drop (State.mem_drop_namesFrom hlisted fun hmem => (habove _ hmem).false)

end

/-- Settles O49: the page is cut from the ascending list of the names at or above the starting name. -/
theorem directoryPagesTheNames : Obligations.DirectoryPagesTheNames := by
  intro s p h start hdir hn
  refine ⟨(s.namesFrom start).take Config.pageSize, decide (Config.pageSize < (s.namesFrom start).length),
    exec_of_carryNew rfl hn nofun rfl, List.length_take_le _ _, (State.namesFrom_pairwise hdir start).take,
    fun n hmem => State.mem_namesFrom_iff.mp (List.mem_of_mem_take hmem), fun r hr hstart hpage => ?_, ?_⟩
  · have hrest := State.mem_drop_namesFrom (State.mem_namesFrom_iff.mpr ⟨hstart, r, hr, rfl⟩) hpage
    exact ⟨List.length_take_of_le (State.namesFrom_length_gt_of_mem_drop hrest).le,
      fun n hmem => State.namesFrom_lt_of_mem_take_of_mem_drop hdir hmem hrest⟩
  · rw [decide_eq_true_iff]
    exact State.namesFrom_length_gt_iff (by decide) hdir

/-! ### Generations that holding slots carry -/

/-- The generations that count as held are those of the holding slots (R116). -/
theorem State.mem_heldGenerations_iff {s : State} {g : Gen} :
    g ∈ s.heldGenerations ↔ ∃ (c : ClientId) (i : SlotId), (s.slot c i).holdingGen = some g := by
  simp only [State.heldGenerations, List.mem_flatMap, List.mem_filterMap, Vector.mem_toList_iff]
  constructor
  · rintro ⟨x, hx, y, hy, hg⟩
    obtain ⟨c, hc, rfl⟩ := Vector.getElem_of_mem hx
    obtain ⟨i, hi, rfl⟩ := Vector.getElem_of_mem hy
    exact ⟨⟨c, hc⟩, ⟨i, hi⟩, hg⟩
  · rintro ⟨c, i, hg⟩
    exact ⟨s.client c, Vector.getElem_mem c.isLt, s.slot c i, Vector.getElem_mem i.isLt, hg⟩

/-- While no slot is holding, the next grant draws the value after the counter (R116). -/
theorem State.drawn_of_no_holding {s : State} (h : ∀ (c : ClientId) (i : SlotId), (s.slot c i).holdingGen = none) :
    s.drawn = successor s.generation := by
  have hnone : s.heldGenerations = [] := List.eq_nil_iff_forall_not_mem.mpr fun g hg => by
    obtain ⟨c, i, hheld⟩ := State.mem_heldGenerations_iff.mp hg
    cases (h c i).symm.trans hheld
  unfold State.drawn
  rw [hnone]
  rfl

/-! ### SEED -/

section

variable {s : State} {c : ClientId} {value : Gen}

/-- R117: a SEED is refused with the status of its first failing check, and changes nothing. -/
theorem carrySeed_refused {st : Status} (h : FirstFailing (seedChecks s c value) st) :
    carrySeed c value s = refusal s st := by
  unfold carrySeed
  rcases h with ⟨hadm, rfl⟩ | ⟨hadm, h⟩
  · exact if_pos hadm
  rw [if_neg hadm]
  rcases h with ⟨hzero, rfl⟩ | ⟨hzero, h⟩
  · exact if_pos hzero
  rw [if_neg hzero]
  rcases h with ⟨hcounter, rfl⟩ | ⟨-, h⟩
  · exact if_pos hcounter
  · exact h.elim

/-- R117: a SEED that passes every check writes the counter. -/
theorem carrySeed_accepted (hadm : (s.client c).admin ≠ false) (hzero : value ≠ 0#32) (hcounter : s.generation = 0#32) :
    carrySeed c value s = ({ s with generation := value }, .ok, .nothing) := by
  unfold carrySeed
  rw [if_neg hadm, if_neg hzero, if_neg (not_not_intro hcounter)]

end

/-- Settles O54, from what each check of R117 refuses; while the counter is 0 no slot is holding, so the draw after the seed
skips nothing. -/
theorem seedSetsTheCounter : Obligations.SeedSetsTheCounter := by
  intro s p h value hn
  refine ⟨fun st hf => exec_of_carryNew rfl hn nofun (carrySeed_refused hf), fun hpass => ?_⟩
  simp only [AllPass, seedChecks, List.forall_mem_cons, not_not] at hpass
  obtain ⟨hadm, hzero, hcounter, -⟩ := hpass
  refine ⟨exec_of_carryNew rfl hn nofun (carrySeed_accepted hadm hzero hcounter), fun hlaw => ?_⟩
  exact State.drawn_of_no_holding (s := { s with generation := value }) (hlaw hcounter)

end Sys2Proof.Machine
end

section
/-! PROOFS. The screening of a request: how it answers one or passes it on, and the sequence check of an open client (R127,
R128, R130, R132). -/

namespace Sys2Proof.Machine

open Sys2Proof.Claims Sys2Proof.Safety

/-! ### A request carried out on its port, whatever its screening -/

/-- No request screened on a port, in the words of the statements (R145). -/
theorem not_holdsScreened_of_screenedOn {u : PortUnit} (h : screenedOn u = none) : ¬ u.holdsScreened := by
  rintro ⟨r, k, hslot⟩
  simp [screenedOn, hslot] at h

/-- A port that takes a request holds none screened (R143). -/
theorem not_holdsScreened_of_taken {s : State} {p : Port} {len : Nat} (h : Taken s p len) : ¬ (s.port p).holdsScreened := by
  rintro ⟨r, k, hslot⟩
  obtain ⟨-, ⟨hempty, -⟩ | ⟨a, -, hready, -⟩⟩ := h
  · cases hslot.symm.trans hempty
  · cases hslot.symm.trans hready

/-- A port with a request handed over holds none screened (R145). -/
theorem not_holdsScreened_of_handed {u : PortUnit} {r : Request} (h : u.slot = .working (.handed r)) :
    ¬ u.holdsScreened := by
  rintro ⟨r', k, hslot⟩
  cases hslot.symm.trans h

/-- A client-level request command is the end of its request's frame on its port. -/
theorem exec_of_clientRequest {i : Instr} {p : Port} {r : Request} {tm : Timing} (h : clientRequest i = some (p, r, tm))
    (s : State) : exec i s = .next (s.requestFrame p r tm) := by
  cases i <;> cases h <;> rfl

section

variable {s : State} {p : Port} {r : Request}

/-- A request screened and carried out leaves its own port unit alone. -/
theorem State.carryHanded_port (hn : ¬ (s.port p).holdsScreened) : (s.carryHanded p r).1.port p = s.port p := by
  rw [← s.carryEarlier_port p r.header.client hn]
  unfold State.carryHanded State.port
  rw [(carryOut_tablesOnly (s.carryEarlier r.header.client) p r).ports]

/-- A request that its port takes is screened and carried out at its frame's end, and its answer waits on the port (R145). -/
theorem requestFrame_of_taken (h : Taken s p (requestLength r)) :
    s.requestFrame p r .atFrameEnd = answered (s.carryHanded p r).1 p (s.carryHanded p r).2 := by
  obtain ⟨f, hf, hl, ha⟩ := taken_admits h
  have hn := not_holdsScreened_of_taken h
  rw [answered, State.carryHanded_port hn]
  exact (s.goodFrame_admitted p _ _ f hf hl (by rwa [length_requestBytes])).trans
    (s.take_atFrameEnd p { s.port p with frame := none, score := (s.port p).score - 1 } r rfl hn)

/-- A request handed over before is screened and carried out when its answer is placed (R145). -/
theorem exec_answerPlaced_of_handed (h : (s.port p).slot = .working (.handed r)) :
    exec (.answerPlaced p) s =
      .next ((s.carryHanded p r).1.setPort p { s.port p with slot := .ready (s.carryHanded p r).2 }) := by
  show execAnswerPlaced p s = _
  unfold execAnswerPlaced
  simp only [h]
  rw [State.setResponse, State.carryHanded_port (not_holdsScreened_of_handed h)]

/-! ### What the screening decides -/

/-- A request that its screening answers is not carried out, and nothing is cached (R126, R129). -/
theorem screenedOff_of_screen {a : Answer}
    (h : screen ((s.carryEarlier r.header.client).client r.header.client) p r = .answered a) : ScreenedOff s p r a := by
  have hcarry : s.carryHanded p r = (s.carryEarlier r.header.client, a) := by
    unfold State.carryHanded carryOut
    rw [h]
  refine ⟨fun i hi htaken => ?_, fun hhanded => ⟨?_, ?_⟩⟩
  · rw [exec_of_clientRequest hi, requestFrame_of_taken htaken, hcarry]
  · rw [exec_answerPlaced_of_handed hhanded, hcarry]
  · unfold State.screenHanded
    simp only [hhanded, h]
    rw [State.setResponse, s.carryEarlier_port p _ (not_holdsScreened_of_handed hhanded)]

/-- A request that its screening passes on is left to be carried out by an event of its own (R145). -/
theorem screenedOn_of_screen {k : Passage}
    (h : screen ((s.carryEarlier r.header.client).client r.header.client) p r = .passed k) : ScreenedOn s p r k := by
  intro hhanded
  unfold State.screenHanded
  simp only [hhanded, h]
  rw [State.setResponse, s.carryEarlier_port p _ (not_holdsScreened_of_handed hhanded)]

/-- A request that finds its client open on its port, and that the screening then answers. Where it is taken or
was handed over, nothing stands before its screening. -/
theorem screenedOff_of_screen_open {a : Answer} (ho : (s.client r.header.client).state ≠ .closed)
    (hp : (s.client r.header.client).port = some p) (h : screen (s.client r.header.client) p r = .answered a) :
    ScreenedOff s p r a := by
  by_cases hn : (s.port p).holdsScreened
  · obtain ⟨r', k, hslot⟩ := hn
    exact ⟨fun i _ htaken => absurd ⟨r', k, hslot⟩ (not_holdsScreened_of_taken htaken),
      fun hhanded => absurd ⟨r', k, hslot⟩ (not_holdsScreened_of_handed hhanded)⟩
  · exact screenedOff_of_screen (by rwa [s.carryEarlier_open p _ ho hp hn])

/-- The same for a request that the screening passes on. -/
theorem screenedOn_of_screen_open {k : Passage} (ho : (s.client r.header.client).state ≠ .closed)
    (hp : (s.client r.header.client).port = some p) (h : screen (s.client r.header.client) p r = .passed k) :
    ScreenedOn s p r k := fun hhanded =>
  screenedOn_of_screen (by rwa [s.carryEarlier_open p _ ho hp (not_holdsScreened_of_handed hhanded)]) hhanded

/-- A request classed new is carried out and its answer cached, at its frame's end as at ANSWER_PLACED, by the state and the
answer of its own carrying out (R127, R129). -/
theorem completes_of_fresh {i : Instr} {t : State} {st : Status} {pl : Payload}
    (hi : clientRequest i = some (p, r, .atFrameEnd)) (hf : Fresh s p r)
    (ht : bodyKind r.body = .openClient → bodyTakeover r.body = true)
    (hc : carryNew p r.header.client r.body s = (t, st, pl)) : Completes i s p r t st pl := by
  obtain ⟨ho, hp, k, hk, hseq⟩ := hf
  have hs := screen_successor p (s.client r.header.client) r k ho hp hk hseq ht
  exact ⟨fun htaken => exec_of_carryNew (exec_of_clientRequest hi s) ⟨htaken, ho, hp, k, hk, hseq⟩ ht hc,
    fun hhanded => execAnswerPlaced_fresh s p r hhanded hs t st pl hc,
    fun hscreened => execAnswerPlaced_screened s p r hscreened t st pl hc⟩

end

/-! ### The sequence check -/

section

variable {x : Client} {k : Cache} {p : Port} {r : Request}

/-- The replay test compares the three items of R130. -/
theorem Cache.matches_iff (k : Cache) (r : Request) : k.matches r = true ↔ sameAsCached k r := by
  simp only [Cache.matches, sameAsCached, Bool.and_eq_true, beq_iff_eq, and_assoc]
  rw [eq_comm (a := k.seq), eq_comm (a := k.kind), eq_comm (a := k.check)]

/-- The replay test fails where an item differs (R130). -/
theorem Cache.matches_of_not_same (h : ¬ sameAsCached k r) : k.matches r = false :=
  Bool.eq_false_iff.mpr fun hm => h ((k.matches_iff r).mp hm)

/-- An OPEN without the takeover flag, by the request's kind and flag (R132). -/
theorem plainOpenRequest_iff (r : Request) :
    plainOpenRequest r ↔ bodyKind r.body = .openClient ∧ bodyTakeover r.body = false := by
  obtain ⟨h, body⟩ := r
  constructor
  · rintro ⟨branch, priority, flags, rfl, hflag⟩
    exact ⟨rfl, hflag⟩
  · rintro ⟨hkind, hflag⟩
    cases body with
    | openClient branch priority flags => exact ⟨branch, priority, flags, rfl, hflag⟩
    | _ => cases hkind

/-- An OPEN that is not an OPEN without takeover has the flag set. -/
theorem takeover_of_not_plainOpen (h : ¬ plainOpenRequest r) (hkind : bodyKind r.body = .openClient) :
    bodyTakeover r.body = true :=
  Bool.eq_true_of_not_eq_false fun hflag => h ((plainOpenRequest_iff r).mpr ⟨hkind, hflag⟩)

/-- A client open on the arriving port: an OPEN is screened as R132 says, any other request by the sequence check (R126). -/
theorem screen_open (ho : x.state ≠ .closed) (hp : x.port = some p) :
    screen x p r = if bodyKind r.body = .openClient then screenReopen x.cache r else screenSequence x.cache r := by
  unfold screen
  rw [if_neg ho, if_neg (not_not_intro hp)]
  split
  · next hkind => rw [if_pos hkind]
  · next hkind => rw [if_neg hkind]

/-- R128: a replay is answered from the cache, an OPEN too. -/
theorem screen_replay (ho : x.state ≠ .closed) (hp : x.port = some p) (hk : x.cache = some k) (hm : sameAsCached k r) :
    screen x p r = .answered { k.answer with replay := true } := by
  have hm' := (k.matches_iff r).mpr hm
  have hsequence : screenSequence (some k) r = .answered { k.answer with replay := true } := if_pos hm'
  have hreopen : screenReopen (some k) r = .answered { k.answer with replay := true } := (if_pos hm').trans hsequence
  rw [screen_open ho hp, hk, hreopen, hsequence, ite_self]

/-- R132: an OPEN without takeover that is no replay. -/
theorem screen_inUse (ho : x.state ≠ .closed) (hp : x.port = some p) (hk : x.cache = some k) (hm : ¬ sameAsCached k r)
    (hplain : plainOpenRequest r) : screen x p r = .answered (answerFor r .inUse .nothing) := by
  obtain ⟨hkind, hflag⟩ := (plainOpenRequest_iff r).mp hplain
  rw [screen_open ho hp, if_pos hkind, hk, screenReopen, if_neg (by simp [Cache.matches_of_not_same hm]),
    if_neg (by simp [hflag])]
  rfl

/-- R127: any other request is screened by its sequence number. -/
theorem screen_sequence (ho : x.state ≠ .closed) (hp : x.port = some p) (hk : x.cache = some k)
    (hplain : ¬ plainOpenRequest r) : screen x p r = screenSequence (some k) r := by
  rw [screen_open ho hp, hk]
  split
  · next hkind => rw [screenReopen, if_pos (takeover_of_not_plainOpen hplain hkind), ite_self]
  · rfl

/-- R127: the cached number on a request that is no replay. -/
theorem screenSequence_conflict (hm : ¬ sameAsCached k r) (hseq : r.header.seq = k.seq) :
    screenSequence (some k) r = .answered (answerFor r .seqConflict .nothing) := by
  unfold screenSequence
  simp only [Cache.matches_of_not_same hm, if_pos hseq]
  rfl

/-- R127: a number that is neither the cached one nor its successor. -/
theorem screenSequence_error (hseq : r.header.seq ≠ k.seq) (hsucc : r.header.seq ≠ k.seq + 1#8) :
    screenSequence (some k) r = .answered (answerFor r .seqError .nothing) := by
  have hm : ¬ sameAsCached k r := fun ⟨h, _⟩ => hseq h
  unfold screenSequence
  simp only [Cache.matches_of_not_same hm, if_neg hseq, if_neg hsucc]
  rfl

end

/-- Settles O22, from the screening of each class of the sequence check, and the carrying out of the successor. -/
theorem sequenceCheckClasses : Obligations.SequenceCheckClasses := by
  intro s p r k ho hp hk
  refine ⟨fun hnone => s.carryEarlier_open p _ ho hp (not_holdsScreened_of_screenedOn hnone), fun hsame => ?_,
    fun hnew hplain => ?_, fun hnew hplain hseq => ?_, fun hplain hseq hsucc => ?_,
    fun hplain hsucc => ⟨?_, fun i hi => ?_⟩⟩
  · exact screenedOff_of_screen_open ho hp (screen_replay ho hp hk hsame)
  · exact screenedOff_of_screen_open ho hp (screen_inUse ho hp hk hnew hplain)
  · exact screenedOff_of_screen_open ho hp
      ((screen_sequence ho hp hk hplain).trans (screenSequence_conflict hnew hseq))
  · exact screenedOff_of_screen_open ho hp
      ((screen_sequence ho hp hk hplain).trans (screenSequence_error hseq hsucc))
  · exact screenedOn_of_screen_open ho hp
      (screen_successor p _ r k ho hp hk hsucc (takeover_of_not_plainOpen hplain))
  · obtain ⟨hpending, hclock, hreset, hports⟩ := carryNew_tablesOnly s p r.header.client r.body
    exact ⟨_, _, _, ⟨hports, hclock, hreset, hpending⟩,
      completes_of_fresh hi ⟨ho, hp, k, hk, hsucc⟩ (takeover_of_not_plainOpen hplain) rfl⟩

end Sys2Proof.Machine
end

section
/-! PROOFS. The port units: bad and unclocked frames (R142, R138), good frames dropped (R144, R149), POLL (R152), and the two
counters (R155). -/

namespace Sys2Proof.Machine

open Sys2Proof.Claims

/-! ### Bad and unclocked frames -/

/-- R155: a counter of a port unit rises as the statements say. -/
theorem bump_eq_counted (n : Half) : bump n = counted n := by
  unfold bump counted
  split
  · next h => exact h
  · rfl

section

variable {u : PortUnit}

/-- R142: a bad frame in FAULTED is counted, and nothing more. -/
theorem PortUnit.bad_faulted (hl : u.link = .faulted) :
    u.bad = { u with frame := none, badFrames := counted u.badFrames } := by
  simp only [PortUnit.bad, hl, bump_eq_counted]

/-- R142, R147: a bad frame in UP that leaves the score below the limit. -/
theorem PortUnit.bad_below (hl : u.link = .up) (hscore : u.score + 8 < 32) :
    u.bad = { u with frame := none, badFrames := counted u.badFrames, score := u.score + 8 } := by
  simp only [PortUnit.bad, hl, bump_eq_counted]
  exact if_pos hscore

/-- R147, R148: a bad frame in UP that takes the score to the limit faults the port. -/
theorem PortUnit.bad_limit (hl : u.link = .up) (hscore : 32 ≤ u.score + 8) :
    u.bad = { u with
      frame := none, badFrames := counted u.badFrames, score := 32, link := .faulted, faultReport := true } := by
  simp only [PortUnit.bad, hl, bump_eq_counted]
  exact if_neg (not_lt.mpr hscore)

/-- R142: in either link state a bad frame is counted once, and is no overrun. -/
theorem PortUnit.bad_counters (u : PortUnit) : u.bad.badFrames = counted u.badFrames ∧ u.bad.overruns = u.overruns := by
  cases hl : u.link with
  | faulted => rw [u.bad_faulted hl]; exact ⟨rfl, rfl⟩
  | up =>
    by_cases hscore : u.score + 8 < 32
    · rw [u.bad_below hl hscore]; exact ⟨rfl, rfl⟩
    · rw [u.bad_limit hl (not_lt.mp hscore)]; exact ⟨rfl, rfl⟩

end

section

variable {s : State} {p : Port}

/-- BAD_FRAME on a port with a frame in progress. -/
theorem exec_badFrame (bits : List Bool) (hf : (s.port p).frame ≠ none) :
    exec (.badFrame ⟨p, bits⟩) s = .next (s.setPort p (s.port p).bad) := by
  obtain ⟨f, hf⟩ := Option.ne_none_iff_exists'.mp hf
  exact congrArg Host.Outcome.next (s.endBad_clockIn p bits f hf)

/-- BAD_FRAME on a port that has not recognised the frame's start (R137). -/
theorem exec_badFrame_ignored (bits : List Bool) (hf : (s.port p).frame = none) :
    exec (.badFrame ⟨p, bits⟩) s = .next s := by
  refine congrArg Host.Outcome.next ?_
  show (s.clockIn p bits).endBad p = s
  rw [s.clockIn_none p bits hf, State.endBad]
  simp only [hf]

end

/-- Settles O10, from the port unit after a bad frame in each link state. -/
theorem badFrameRaisesScoreAndCounter : Obligations.BadFrameRaisesScoreAndCounter := by
  refine ⟨fun s p bits hf => ⟨fun hl => ?_, fun hl hscore => ?_, fun hl hscore => ?_⟩, fun s p => rfl⟩
  · rw [exec_badFrame bits hf, PortUnit.bad_faulted hl]
  · rw [exec_badFrame bits hf, PortUnit.bad_below hl hscore]
  · rw [exec_badFrame bits hf, PortUnit.bad_limit hl hscore]

/-! ### The response slot and a good frame -/

/-- R139: a frame carries no answer whole where it is shorter than the answer it shifts out, or shifts out none. -/
theorem Outgoing.carriedWhole_eq_false_iff (o : Outgoing) (len : Nat) :
    o.carriedWhole len = false ↔ ∀ b, o = .answer b → len < answerLength b := by
  cases o <;> simp [Outgoing.carriedWhole]

/-- R143: the response slot keeps a request out where it is WORKING, or READY with an answer not carried whole. -/
theorem PortUnit.admits_eq_false_iff (u : PortUnit) (out : Outgoing) (len : Nat) :
    u.admits out len = false ↔
      (∃ w, u.slot = .working w) ∨ ∃ a, u.slot = .ready a ∧ ∀ b, out = .answer b → len < answerLength b := by
  unfold PortUnit.admits
  cases u.slot with
  | empty => simp
  | ready a => simp [Outgoing.carriedWhole_eq_false_iff]
  | working w => simp

/-- R143: an overrun, by the test of the response slot. -/
theorem overrun_iff {s : State} {p : Port} {len : Nat} :
    Overrun s p len ↔
      (s.port p).link = .up ∧ ∃ f, (s.port p).frame = some f ∧ (s.port p).admits f.outgoing len = false := by
  simp only [Overrun, PortUnit.admits_eq_false_iff]

section

variable {s : State} {p : Port} {bytes : List Byte} {taken : State → State}

/-- R143: the end of a good frame whose request is taken. -/
theorem State.goodFrame_of_taken (h : Taken s p bytes.length) :
    s.goodFrame p bytes taken = taken (s.setPort p { s.port p with frame := none, score := (s.port p).score - 1 }) := by
  obtain ⟨f, hf, hl, ha⟩ := taken_admits h
  exact s.goodFrame_admitted p bytes taken f hf hl ha

/-- R144: the end of a good frame whose request is dropped as an overrun. -/
theorem State.goodFrame_of_overrun (h : Overrun s p bytes.length) :
    s.goodFrame p bytes taken = s.setPort p { s.port p with
      frame := none, score := (s.port p).score - 1, overruns := counted (s.port p).overruns } := by
  obtain ⟨hl, f, hf, ha⟩ := overrun_iff.mp h
  rw [s.goodFrame_overrun p bytes taken f hf hl ha, bump_eq_counted]

/-- R149: the end of a good frame in FAULTED. -/
theorem State.goodFrame_of_faulted (hl : (s.port p).link = .faulted) (hf : (s.port p).frame ≠ none) :
    s.goodFrame p bytes taken = s.setPort p { s.port p with frame := none } := by
  obtain ⟨f, hf⟩ := Option.ne_none_iff_exists'.mp hf
  exact s.goodFrame_faulted p bytes taken f hf hl

end

/-! ### What keeps the counters of a port -/

/-- The bad-frame counter and the overrun counter of the port stand in `t` as in `s`. -/
def CountersKept (p : Port) (s t : State) : Prop :=
  (t.port p).badFrames = (s.port p).badFrames ∧ (t.port p).overruns = (s.port p).overruns

section

variable {p : Port} {s t u : State}

theorem CountersKept.rfl' : CountersKept p s s := ⟨rfl, rfl⟩

theorem CountersKept.trans (h : CountersKept p s t) (k : CountersKept p t u) : CountersKept p s u :=
  ⟨k.1.trans h.1, k.2.trans h.2⟩

/-- The whole port unit is kept. -/
theorem CountersKept.of_port (h : t.port p = s.port p) : CountersKept p s t := by
  unfold CountersKept
  rw [h]
  exact ⟨rfl, rfl⟩

theorem TablesOnly.countersKept (h : TablesOnly s t) : CountersKept p s t :=
  .of_port (congrArg (fun v : Vector PortUnit 8 => v[p]) h.ports)

theorem EarlierOnly.countersKept (h : EarlierOnly s t) : CountersKept p s t := by
  obtain e | ⟨r, k, a, -, e⟩ := h.port p
  · exact .of_port e
  · unfold CountersKept
    rw [e]
    exact ⟨rfl, rfl⟩

/-- A port unit replaced by one with the counters it had. -/
theorem State.setPort_countersKept {q : Port} {x : PortUnit} (hb : x.badFrames = (s.port q).badFrames)
    (ho : x.overruns = (s.port q).overruns) : CountersKept p s (s.setPort q x) := by
  unfold CountersKept
  rw [State.port_setPort]
  split
  · next h => exact h ▸ ⟨hb, ho⟩
  · exact ⟨rfl, rfl⟩

/-- Another port's unit replaced. -/
theorem State.setPort_countersKept_of_ne {q : Port} {x : PortUnit} (h : q ≠ p) : CountersKept p s (s.setPort q x) :=
  .of_port (by rw [State.port_setPort, if_neg h])

theorem State.setResponse_countersKept {q : Port} {x : ResponseSlot} : CountersKept p s (s.setResponse q x) :=
  State.setPort_countersKept rfl rfl

/-- A fold of operations that keep the counters. -/
theorem CountersKept.foldl {α : Type} {f : State → α → State} (hf : ∀ u a, CountersKept p u (f u a)) (l : List α)
    (h : CountersKept p s t) : CountersKept p s (l.foldl f t) :=
  List.foldlRecOn l f (motive := CountersKept p s) h fun u hu a _ => hu.trans (hf u a)

variable (s) (q : Port)

theorem State.carryHanded_countersKept (r : Request) : CountersKept p s (s.carryHanded q r).1 :=
  (s.carryEarlier_only _).countersKept.trans (carryOut_tablesOnly _ q r).countersKept

theorem State.take_countersKept (r : Request) (tm : Timing) : CountersKept p s (s.take q r tm) := by
  cases tm with
  | later => exact State.setResponse_countersKept
  | atFrameEnd =>
    exact (State.setResponse_countersKept.trans (State.carryHanded_countersKept _ q r)).trans
      State.setResponse_countersKept

theorem State.screenHanded_countersKept : CountersKept p s (s.screenHanded q) := by
  unfold State.screenHanded
  split
  · split <;> exact (s.carryEarlier_only _).countersKept.trans State.setResponse_countersKept
  all_goals exact .rfl'

theorem State.faultClient_countersKept (c : ClientId) : CountersKept p s (s.faultClient q c) := by
  unfold State.faultClient
  split
  · dsimp only
    split
    · split
      · exact ((s.endWait_tablesOnly _ _ _).trans (State.followUp_tablesOnly _ _)).countersKept.trans
          (.of_port (State.setClient_port _ _ _ _))
      · exact .of_port (State.setClient_port _ _ _ _)
    · exact .of_port (State.setClient_port _ _ _ _)
  · exact .rfl'

theorem State.takeFault_countersKept : CountersKept p s (s.takeFault q) := by
  unfold State.takeFault State.suspendClients
  split
  · refine .foldl (fun u c => u.faultClient_countersKept q c) _ ?_
    exact (s.screenHanded_countersKept q).trans (State.setPort_countersKept rfl rfl)
  · exact .rfl'

theorem State.reopen_countersKept (c : ClientId) : CountersKept p s (s.reopen q c) := by
  unfold State.reopen
  split
  · exact .of_port (State.setClient_port _ _ _ _)
  · exact .rfl'

theorem State.resetLink_countersKept (seq : Byte) : CountersKept p s (s.resetLink q seq) := by
  unfold State.resetLink
  refine .trans (.foldl (fun u c => u.reopen_countersKept q c) _ ?_) State.setResponse_countersKept
  exact (s.takeFault_countersKept q).trans (State.setPort_countersKept rfl rfl)

end

/-! ### What every good frame does -/

/-- The commands that end a good frame: the client-level requests, a malformed request, and the three port-level kinds. -/
theorem goodFrame_eq_some {i : Instr} {p : Port} {len : Nat} (h : goodFrame i = some (p, len)) :
    (∃ r tm, clientRequest i = some (p, r, tm) ∧ requestLength r = len) ∨
    (∃ hd kind payload, i = .unknownKind p hd kind payload ∧ payload.length + 5 = len) ∨
    (∃ f, i = .poll p f ∧ f.padding.length + 5 = len) ∨
    (∃ hd, i = .probe p hd ∧ 5 = len) ∨
    ∃ hd, i = .linkReset p hd ∧ 5 = len := by
  unfold goodFrame at h
  split at h
  · cases h; exact .inr (.inl ⟨_, _, _, rfl, rfl⟩)
  · cases h; exact .inr (.inr (.inl ⟨_, rfl, rfl⟩))
  · cases h; exact .inr (.inr (.inr (.inl ⟨_, rfl, rfl⟩)))
  · cases h; exact .inr (.inr (.inr (.inr ⟨_, rfl, rfl⟩)))
  · obtain ⟨⟨q, r, tm⟩, hc, e⟩ := Option.map_eq_some_iff.mp h
    cases e
    exact .inl ⟨r, tm, hc, rfl⟩

/-- LINK_RESET in UP is a good frame as any other (R143). -/
theorem exec_linkReset_up {s : State} {p : Port} (hd : Header) (hl : (s.port p).link = .up) :
    exec (.linkReset p hd) s =
      .next (s.goodFrame p (headedBytes hd (kindCode .linkReset) []) fun u => u.resetLink p hd.seq) := by
  show execLinkReset p hd s = _
  unfold execLinkReset
  cases hf : (s.port p).frame with
  | none => rw [s.goodFrame_ignored p _ _ hf]
  | some f => simp only [hl]

/-- Every command that ends a good frame, but LINK_RESET in FAULTED, is the end of a frame of that length, with a taking of
its request that keeps the counters of every port. -/
theorem exec_of_goodFrame {i : Instr} {p : Port} {len : Nat} (h : goodFrame i = some (p, len)) :
    ∃ bytes taken, bytes.length = len ∧ (∀ q u, CountersKept q u (taken u)) ∧
      ∀ s, (s.port p).link = .up ∨ (∀ hd, i ≠ .linkReset p hd) → exec i s = .next (s.goodFrame p bytes taken) := by
  obtain ⟨r, tm, hc, rfl⟩ | ⟨hd, kind, payload, rfl, rfl⟩ | ⟨f, rfl, rfl⟩ | ⟨hd, rfl, rfl⟩ | ⟨hd, rfl, rfl⟩ :=
    goodFrame_eq_some h
  · exact ⟨requestBytes r, _, length_requestBytes r, fun q u => u.take_countersKept p r tm,
      fun s _ => exec_of_clientRequest hc s⟩
  · exact ⟨headedBytes hd kind payload, _, length_headedBytes hd kind payload,
      fun q u => State.setResponse_countersKept, fun _ _ => rfl⟩
  · exact ⟨headedBytes f.header (kindCode .poll) f.padding, _, length_headedBytes _ _ _,
      fun q u => State.setResponse_countersKept, fun _ _ => rfl⟩
  · exact ⟨headedBytes hd (kindCode .probe) [], _, length_headedBytes _ _ _,
      fun q u => State.setResponse_countersKept, fun _ _ => rfl⟩
  · refine ⟨headedBytes hd (kindCode .linkReset) [], _, length_headedBytes _ _ _,
      fun q u => u.resetLink_countersKept p hd.seq, fun s hs => ?_⟩
    exact exec_linkReset_up hd (hs.resolve_right fun hne => hne hd rfl)

/-! ### Requests dropped -/

section

variable {i : Instr} {s : State} {p : Port} {len : Nat}

/-- R144: a good frame of any kind whose request is an overrun. -/
theorem exec_of_overrun (hi : goodFrame i = some (p, len)) (h : Overrun s p len) :
    exec i s = .next (s.setPort p { s.port p with
      frame := none, score := (s.port p).score - 1, overruns := counted (s.port p).overruns }) := by
  obtain ⟨bytes, taken, rfl, -, he⟩ := exec_of_goodFrame hi
  rw [he s (.inl h.1), State.goodFrame_of_overrun h]

/-- R149: a good frame of any kind but LINK_RESET in FAULTED. -/
theorem exec_of_faulted (hi : goodFrame i = some (p, len)) (hne : ∀ hd, i ≠ .linkReset p hd)
    (hl : (s.port p).link = .faulted) (hf : (s.port p).frame ≠ none) :
    exec i s = .next (s.setPort p { s.port p with frame := none }) := by
  obtain ⟨bytes, taken, -, -, he⟩ := exec_of_goodFrame hi
  rw [he s (.inr hne), State.goodFrame_of_faulted hl hf]

/-- A LINK_RESET whose frame's start the port has not recognised (R137). -/
theorem exec_linkReset_ignored (hd : Header) (hf : (s.port p).frame = none) : exec (.linkReset p hd) s = .next s := by
  show execLinkReset p hd s = _
  unfold execLinkReset
  simp only [hf]

/-- R150: a LINK_RESET in FAULTED with the slot EMPTY or READY. -/
theorem exec_linkReset_taken (hd : Header) (hl : (s.port p).link = .faulted) (hf : (s.port p).frame ≠ none)
    (hw : ∀ w, (s.port p).slot ≠ .working w) :
    exec (.linkReset p hd) s = .next ((s.setPort p { s.port p with frame := none }).resetLink p hd.seq) := by
  obtain ⟨f, hf⟩ := Option.ne_none_iff_exists'.mp hf
  show execLinkReset p hd s = _
  unfold execLinkReset
  cases hs : (s.port p).slot with
  | working w => exact absurd hs (hw w)
  | empty => simp only [hf, hl]
  | ready a => simp only [hf, hl]

/-- R150: a LINK_RESET in FAULTED with the slot WORKING. -/
theorem exec_linkReset_working (hd : Header) {w : Work} (hl : (s.port p).link = .faulted) (hf : (s.port p).frame ≠ none)
    (hw : (s.port p).slot = .working w) :
    exec (.linkReset p hd) s = .next (s.setPort p { s.port p with
      frame := none, overruns := counted (s.port p).overruns }) := by
  obtain ⟨f, hf⟩ := Option.ne_none_iff_exists'.mp hf
  show execLinkReset p hd s = _
  unfold execLinkReset
  simp only [hf, hl, hw, PortUnit.overrun, bump_eq_counted]

end

/-- Settles O11, from the end of a good frame of every kind. -/
theorem droppedRequestReachesNoOwner : Obligations.DroppedRequestReachesNoOwner :=
  ⟨fun _ _ _ _ hi h => exec_of_overrun hi h, fun _ _ _ _ hi hne hl hf => exec_of_faulted hi hne hl hf⟩

/-- R152: a POLL that is taken empties the response slot. -/
theorem exec_poll_of_taken {s : State} {p : Port} {f : PollFrame} (h : Taken s p (f.padding.length + 5)) :
    exec (.poll p f) s = .next (s.setPort p (afterGood (s.port p) .empty)) := by
  refine congrArg Host.Outcome.next ?_
  rw [State.goodFrame_of_taken (by rwa [length_headedBytes])]
  simp [State.setResponse, afterGood]

/-- Settles O12: a POLL is taken as its own rule says, and dropped as every good frame is. -/
theorem pollConsumesACarriedAnswer : Obligations.PollConsumesACarriedAnswer :=
  fun _ _ _ _ _ => ⟨fun h => exec_poll_of_taken h, fun h => exec_of_overrun rfl h,
    fun hl hf => exec_of_faulted rfl nofun hl hf⟩

/-! ### The counters -/

section

variable {i : Instr} {s t : State} {p : Port}

/-- A request dropped on a port is that of a good frame there. -/
theorem goodFrame_of_droppedOn (h : DroppedOn i s p) : ∃ len, goodFrame i = some (p, len) := by
  obtain ⟨len, hi, -⟩ | ⟨⟨hd, rfl⟩, -⟩ := h
  · exact ⟨len, hi⟩
  · exact ⟨5, rfl⟩

/-- R144, R150: a dropped request is counted, on its own port and once. -/
theorem counters_of_droppedOn (h : DroppedOn i s p) (he : exec i s = .next t) :
    (t.port p).badFrames = (s.port p).badFrames ∧ (t.port p).overruns = counted (s.port p).overruns := by
  obtain ⟨len, hi, ho⟩ | ⟨⟨hd, rfl⟩, hl, hf, w, hw⟩ := h
  · cases (exec_of_overrun hi ho).symm.trans he
    simp
  · cases (exec_linkReset_working hd hl hf hw).symm.trans he
    simp

/-- R142: a bad frame is counted, on its own port and once. -/
theorem counters_of_badFrameOn (h : BadFrameOn i s p) (he : exec i s = .next t) :
    (t.port p).badFrames = counted (s.port p).badFrames ∧ (t.port p).overruns = (s.port p).overruns := by
  obtain ⟨⟨bits, rfl⟩, hf⟩ := h
  cases (exec_badFrame bits hf).symm.trans he
  simpa using (s.port p).bad_counters

/-- A command whose next state is given keeps the counters where that state does. -/
theorem countersKept_of_exec {u : State} (he : exec i s = .next t) (hu : exec i s = .next u) (hk : CountersKept p s u) :
    CountersKept p s t := by
  obtain rfl := Host.Outcome.next.inj (hu.symm.trans he)
  exact hk

/-- A bad frame on another port, or one whose start was not recognised, counts nothing here. -/
theorem badFrame_countersKept {f : RawFrame} (h : ¬ BadFrameOn (.badFrame f) s p) (he : exec (.badFrame f) s = .next t) :
    CountersKept p s t := by
  by_cases hf : (s.port f.port).frame = none
  · exact countersKept_of_exec he (exec_badFrame_ignored f.bits hf) .rfl'
  · refine countersKept_of_exec he (exec_badFrame f.bits hf) (State.setPort_countersKept_of_ne ?_)
    rintro rfl
    exact h ⟨⟨f.bits, rfl⟩, hf⟩

/-- LINK_RESET in FAULTED that is not dropped: ignored, or taken. -/
theorem linkReset_countersKept {q : Port} {hd : Header} (hl : (s.port q).link = .faulted)
    (h : ¬ DroppedOn (.linkReset q hd) s p) (he : exec (.linkReset q hd) s = .next t) : CountersKept p s t := by
  by_cases hf : (s.port q).frame = none
  · exact countersKept_of_exec he (exec_linkReset_ignored hd hf) .rfl'
  · by_cases hw : ∃ w, (s.port q).slot = .working w
    · obtain ⟨w, hw⟩ := hw
      refine countersKept_of_exec he (exec_linkReset_working hd hl hf hw) (State.setPort_countersKept_of_ne ?_)
      rintro rfl
      exact h (.inr ⟨⟨hd, rfl⟩, hl, hf, w, hw⟩)
    · refine countersKept_of_exec he (exec_linkReset_taken hd hl hf fun w e => hw ⟨w, e⟩) ?_
      refine .trans ?_ (State.resetLink_countersKept _ q hd.seq)
      exact State.setPort_countersKept rfl rfl

/-- A good frame whose request is not dropped on the port counts nothing there (R143, R149). -/
theorem goodFrame_countersKept {q : Port} {len : Nat} (hi : goodFrame i = some (q, len)) (h : ¬ DroppedOn i s p)
    (he : exec i s = .next t) : CountersKept p s t := by
  obtain ⟨bytes, taken, rfl, hkept, hexec⟩ := exec_of_goodFrame hi
  by_cases hup : (s.port q).link = .up ∨ ∀ hd, i ≠ .linkReset q hd
  · refine countersKept_of_exec he (hexec s hup) ?_
    obtain ⟨-, e⟩ | ⟨-, -, e⟩ | ⟨f, hf, hl, ha, e⟩ | ⟨f, -, -, -, e⟩ := s.goodFrame_cases q bytes taken
    · rw [e]
      exact .rfl'
    · rw [e]
      exact State.setPort_countersKept rfl rfl
    · rw [e]
      refine State.setPort_countersKept_of_ne ?_
      rintro rfl
      exact h (.inl ⟨_, hi, overrun_iff.mpr ⟨hl, f, hf, ha⟩⟩)
    · rw [e]
      refine .trans ?_ (hkept p _)
      exact State.setPort_countersKept rfl rfl
  · push Not at hup
    obtain ⟨hl, hd, rfl⟩ := hup
    refine linkReset_countersKept ?_ h he
    cases hlink : (s.port q).link with
    | up => exact absurd hlink hl
    | faulted => rfl

/-- The placing of an answer, by the stage of the request in processing (R145). -/
theorem answerPlaced_countersKept {q : Port} (he : exec (.answerPlaced q) s = .next t) : CountersKept p s t := by
  cases he
  split
  · exact State.setResponse_countersKept
  · next r k _ => exact (carryScreened_tablesOnly s k q r).countersKept.trans State.setResponse_countersKept
  · next r _ => exact (s.carryHanded_countersKept q r).trans State.setResponse_countersKept
  · exact .rfl'
  · exact .rfl'

/-- A settle end, by the state of its channel (R93). -/
theorem settleEnd_countersKept {g : ChannelId} {us : Nat} (he : exec (.settleEnd g us) s = .next t) :
    CountersKept p s t := by
  cases he
  split
  · split
    · exact (s.settleEnds_tablesOnly g).countersKept
    · exact .rfl'
  · exact .rfl'
  · exact .rfl'

/-- An event that ends no frame with bits counts nothing, but for the chip reset. -/
theorem event_countersKept (hi : goodFrame i = none) (hbad : ∀ f, i ≠ .badFrame f) (hreset : i ≠ .chipReset)
    (he : exec i s = .next t) : CountersKept p s t := by
  cases i with
  | frameStart q =>
    cases he
    split
    · exact .rfl'
    · exact State.setPort_countersKept rfl rfl
  | badFrame f => exact absurd rfl (hbad f)
  | answerPlaced q => exact answerPlaced_countersKept he
  | portFault q => exact countersKept_of_exec he rfl (s.takeFault_countersKept q)
  | waitDeadline c j => exact countersKept_of_exec he rfl (s.waitDeadline_tablesOnly c j).countersKept
  | expiry c j => exact countersKept_of_exec he rfl (s.expire_tablesOnly c j).countersKept
  | revocation c j => exact countersKept_of_exec he rfl (s.revoke_tablesOnly c j).countersKept
  | settleEnd g us => exact settleEnd_countersKept he
  | chipReset => exact absurd rfl hreset
  | leaseClockTick =>
    cases he
    split <;> exact .rfl'
  | unclockedFrame q =>
    cases he
    exact State.setPort_countersKept rfl rfl
  | endOfReset =>
    cases he
    exact .rfl'
  | _ => cases hi

/-- R155: a command that is no bad frame on the port, drops no request there and is no chip reset keeps its counters. -/
theorem countersKept_of_exec_neither (hreset : i ≠ .chipReset) (hbad : ¬ BadFrameOn i s p) (hdrop : ¬ DroppedOn i s p)
    (he : exec i s = .next t) : CountersKept p s t := by
  cases hi : goodFrame i with
  | some x => exact goodFrame_countersKept (q := x.1) (len := x.2) hi hdrop he
  | none =>
    by_cases hframe : ∃ f, i = .badFrame f
    · obtain ⟨f, rfl⟩ := hframe
      exact badFrame_countersKept hbad he
    · exact event_countersKept hi (fun f h => hframe ⟨f, h⟩) hreset he

/-- No command is both the end of a bad frame and a request dropped. -/
theorem not_droppedOn_of_badFrameOn (h : BadFrameOn i s p) : ¬ DroppedOn i s p := by
  intro hdrop
  obtain ⟨⟨bits, rfl⟩, -⟩ := h
  obtain ⟨len, hi⟩ := goodFrame_of_droppedOn hdrop
  cases hi

/-- After a chip reset every port unit stands at its reset values (R137). -/
theorem port_reset (p : Port) : State.reset.port p = resetPort :=
  Vector.getElem_replicate (n := 8) p.isLt

end

/-- Settles O18: what a bad frame and a dropped request count, and that every other command but the chip reset counts
nothing. -/
theorem countersCountAndSaturate : Obligations.CountersCountAndSaturate := by
  intro i s t p he
  constructor
  · rintro rfl
    cases he
    have hport : ({ State.reset with pending := s.pending, inReset := true } : State).port p = resetPort := port_reset p
    rw [hport]
    exact ⟨rfl, rfl⟩
  · intro hreset
    by_cases hbad : BadFrameOn i s p
    · obtain ⟨hb, ho⟩ := counters_of_badFrameOn hbad he
      exact ⟨fun _ => hb, fun h => absurd hbad h, fun h => absurd h (not_droppedOn_of_badFrameOn hbad), fun _ => ho⟩
    · by_cases hdrop : DroppedOn i s p
      · obtain ⟨hb, ho⟩ := counters_of_droppedOn hdrop he
        exact ⟨fun h => absurd h hbad, fun _ => hb, fun _ => ho, fun h => absurd hdrop h⟩
      · obtain ⟨hb, ho⟩ := countersKept_of_exec_neither hreset hbad hdrop he
        exact ⟨fun h => absurd h hbad, fun _ => hb, fun h => absurd h hdrop, fun _ => ho⟩

end Sys2Proof.Machine
end

section
/-! PROOFS. The form check of a good frame (R157), BAD_REQUEST (R154), and PROBE (R153). -/

namespace Sys2Proof.Machine

open Sys2Proof.Claims

/-! ### Kinds, payload lengths and the request read -/

/-- Table 11-2: a kind byte names the kind whose code it is. -/
theorem kindOfCode_eq_some_iff {b : Byte} {k : Kind} : kindOfCode b = some k ↔ kindCode k = b := by
  constructor
  · intro h
    simpa using List.find?_some h
  · rintro rfl
    cases k <;> rfl

/-- Table 11-2 lists every kind. -/
theorem mem_allKinds (k : Kind) : k ∈ allKinds := by
  cases k <;> decide

/-- Table 11-2 of the statements is that of the model. -/
theorem requestTable_eq_map : requestTable = allKinds.map fun k => (kindCode k, kindPayloadLength k) := rfl

/-- A kind byte and a payload length that no row of Table 11-2 has: the kind is unknown, or requires another length. -/
theorem no_row_iff {kind : Byte} {m : Nat} :
    (∀ row ∈ requestTable, row.1 = kind → ∃ n, row.2 = some n ∧ m ≠ n) ↔
      ∀ k, kindOfCode kind = some k → ∃ n, kindPayloadLength k = some n ∧ m ≠ n := by
  simp only [requestTable_eq_map, List.forall_mem_map, mem_allKinds, true_imp_iff, kindOfCode_eq_some_iff]

/-- A request is read from a payload of its kind's length alone (R157). -/
theorem length_of_bodyOf {k : Kind} {payload : List Byte} {body : Body} (h : bodyOf k payload = some body) :
    kindPayloadLength k = some payload.length := by
  cases k with
  | openClient => match payload, h with | [_, _, _], _ => rfl
  | close => match payload, h with | [], _ => rfl
  | acquire => match payload, h with | [_, _, _, _, _], _ => rfl
  | release => match payload, h with | [_], _ => rfl
  | cancel => match payload, h with | [_], _ => rfl
  | renew => match payload, h with | [_], _ => rfl
  | renewAll => match payload, h with | [], _ => rfl
  | fetch => match payload, h with | [], _ => rfl
  | slotRead => match payload, h with | [_], _ => rfl
  | check => match payload, h with | [_, _, _, _, _, _], _ => rfl
  | query => match payload, h with | [_, _], _ => rfl
  | directory => match payload, h with | [_, _], _ => rfl
  | define => match payload, h with | [_, _, _, _, _, _, _, _, _, _, _, _], _ => rfl
  | amend => match payload, h with | [_, _, _, _, _, _, _, _], _ => rfl
  | retire => match payload, h with | [_, _, _], _ => rfl
  | seed => match payload, h with | [_, _, _, _], _ => rfl
  | poll | probe | linkReset => cases h

/-- A client-level request is read from every payload of its kind's length (Table 11-3). -/
theorem exists_bodyOf {k : Kind} {payload : List Byte} (hprobe : k ≠ .probe) (hreset : k ≠ .linkReset)
    (hlen : kindPayloadLength k = some payload.length) : ∃ body, bodyOf k payload = some body := by
  cases k with
  | poll => cases hlen
  | probe => exact absurd rfl hprobe
  | linkReset => exact absurd rfl hreset
  | openClient => match payload, hlen with | [_, _, _], _ => exact ⟨_, rfl⟩
  | close => match payload, hlen with | [], _ => exact ⟨_, rfl⟩
  | acquire => match payload, hlen with | [_, _, _, _, _], _ => exact ⟨_, rfl⟩
  | release => match payload, hlen with | [_], _ => exact ⟨_, rfl⟩
  | cancel => match payload, hlen with | [_], _ => exact ⟨_, rfl⟩
  | renew => match payload, hlen with | [_], _ => exact ⟨_, rfl⟩
  | renewAll => match payload, hlen with | [], _ => exact ⟨_, rfl⟩
  | fetch => match payload, hlen with | [], _ => exact ⟨_, rfl⟩
  | slotRead => match payload, hlen with | [_], _ => exact ⟨_, rfl⟩
  | check => match payload, hlen with | [_, _, _, _, _, _], _ => exact ⟨_, rfl⟩
  | query => match payload, hlen with | [_, _], _ => exact ⟨_, rfl⟩
  | directory => match payload, hlen with | [_, _], _ => exact ⟨_, rfl⟩
  | define => match payload, hlen with | [_, _, _, _, _, _, _, _, _, _, _, _], _ => exact ⟨_, rfl⟩
  | amend => match payload, hlen with | [_, _, _, _, _, _, _, _], _ => exact ⟨_, rfl⟩
  | retire => match payload, hlen with | [_, _, _], _ => exact ⟨_, rfl⟩
  | seed => match payload, hlen with | [_, _, _, _], _ => exact ⟨_, rfl⟩

/-- The command of a client-level request carries a request. -/
theorem instrRequest_commandOf (p : Port) (t : Timing) (h : Header) (body : Body) :
    ∃ r, instrRequest (commandOf p t h body) = some r := by
  cases body with
  | openClient branch priority flags => simp only [commandOf]; split <;> exact ⟨_, rfl⟩
  | retire name mode => simp only [commandOf]; split <;> exact ⟨_, rfl⟩
  | _ => exact ⟨_, rfl⟩

/-- A command without a request is not that of a client-level request. -/
theorem commandOf_ne {p : Port} {t : Timing} {h : Header} {body : Body} {i : Instr} (hi : instrRequest i = none) :
    commandOf p t h body ≠ i := by
  rintro rfl
  obtain ⟨r, hr⟩ := instrRequest_commandOf p t h body
  cases hi.symm.trans hr

/-- A good frame with the payload length that its kind requires (R157): a PROBE, a LINK_RESET, or a client-level request. -/
theorem decodeGood_wellFormed {p : Port} {t : Timing} {client seq kind : Byte} {payload : List Byte} {k : Kind}
    (hk : kindOfCode kind = some k) (hlen : kindPayloadLength k = some payload.length) :
    decodeGood p t client seq kind payload = .probe p (headerOf client seq) ∨
    decodeGood p t client seq kind payload = .linkReset p (headerOf client seq) ∨
    ∃ body, decodeGood p t client seq kind payload = commandOf p t (headerOf client seq) body := by
  have hempty (h : kindPayloadLength k = some 0) : payload = [] :=
    List.length_eq_zero_iff.mp (Option.some.inj (hlen.symm.trans h))
  by_cases hprobe : k = .probe
  · subst hprobe
    simp [decodeGood, hk, hempty rfl]
  by_cases hreset : k = .linkReset
  · subst hreset
    simp [decodeGood, hk, hempty rfl]
  obtain ⟨body, hbody⟩ := exists_bodyOf hprobe hreset hlen
  refine .inr (.inr ⟨body, ?_⟩)
  cases k with
  | poll | probe | linkReset => cases hbody
  | _ => simp only [decodeGood, hk, hbody]

/-- A good frame of another payload length than its kind requires (R157). -/
theorem decodeGood_malformed {p : Port} {t : Timing} {client seq kind : Byte} {payload : List Byte} {k : Kind} {n : Nat}
    (hk : kindOfCode kind = some k) (hn : kindPayloadLength k = some n) (hne : payload.length ≠ n) :
    decodeGood p t client seq kind payload = .unknownKind p (headerOf client seq) kind payload := by
  have hbody : bodyOf k payload = none := by
    refine Option.eq_none_iff_forall_ne_some.mpr fun body hbody => hne ?_
    exact Option.some.inj ((length_of_bodyOf hbody).symm.trans hn)
  have hnonempty (h : kindPayloadLength k = some 0) : payload ≠ [] := by
    rintro rfl
    exact hne (Option.some.inj (h.symm.trans hn))
  cases k with
  | poll => cases hn
  | probe => simp only [decodeGood, hk, if_neg (hnonempty rfl)]
  | linkReset => simp only [decodeGood, hk, if_neg (hnonempty rfl)]
  | _ => simp only [decodeGood, hk, hbody]

/-- R157: the command of a good frame is that of a malformed request where its kind is unknown or requires another length. -/
theorem decodeGood_eq_unknownKind_iff (p : Port) (t : Timing) (client seq kind : Byte) (payload : List Byte) :
    decodeGood p t client seq kind payload = .unknownKind p (headerOf client seq) kind payload ↔
      ∀ k, kindOfCode kind = some k → ∃ n, kindPayloadLength k = some n ∧ payload.length ≠ n := by
  cases hk : kindOfCode kind with
  | none => simp [decodeGood, hk]
  | some k =>
    simp only [Option.some.injEq, forall_eq']
    constructor
    · intro hunknown
      cases hn : kindPayloadLength k with
      | none =>
        cases k with
        | poll => simp [decodeGood, hk] at hunknown
        | _ => cases hn
      | some n =>
        refine ⟨n, rfl, ?_⟩
        rintro rfl
        obtain e | e | ⟨body, e⟩ := decodeGood_wellFormed (p := p) (t := t) (client := client) (seq := seq) hk hn
        · cases e.symm.trans hunknown
        · cases e.symm.trans hunknown
        · exact commandOf_ne rfl (e.symm.trans hunknown)
    · rintro ⟨n, hn, hne⟩
      exact decodeGood_malformed hk hn hne

/-! ### Answers of the port unit -/

section

variable {s : State} {p : Port}

/-- A request that is taken, and whose answer is complete at once: it may hang on the part once the frame has ended (R145). -/
theorem State.goodFrame_answered {bytes : List Byte} (h : Taken s p bytes.length) (a : State → Answer) :
    s.goodFrame p bytes (fun u => u.setResponse p (.working (.done (a u)))) =
      answered s p (a (s.setPort p { s.port p with frame := none, score := (s.port p).score - 1 })) := by
  rw [State.goodFrame_of_taken h]
  simp [State.setResponse, answered, afterGood]

/-- R154: a malformed request that is taken is answered BAD_REQUEST. -/
theorem exec_unknownKind_of_taken {h : Header} {kind : Byte} {payload : List Byte}
    (htaken : Taken s p (payload.length + 5)) :
    exec (.unknownKind p h kind payload) s = .next (answered s p (portAnswer h.seq kind .badRequest .nothing)) :=
  congrArg Host.Outcome.next
    (State.goodFrame_answered (by rwa [length_headedBytes]) fun _ => portAnswer h.seq kind .badRequest .nothing)

/-- R153: a PROBE that is taken is answered from the part as it stands once the PROBE's own frame has ended. -/
theorem exec_probe_of_taken {h : Header} (htaken : Taken s p 5) :
    exec (.probe p h) s = .next (answered s p (portAnswer h.seq 0x02#8 .ok
      (.probe ((s.setPort p { s.port p with frame := none, score := (s.port p).score - 1 }).viewProbe p)))) :=
  congrArg Host.Outcome.next
    (State.goodFrame_answered (by rwa [length_headedBytes]) fun u => portAnswer h.seq 0x02#8 .ok (.probe (u.viewProbe p)))

end

/-- Settles O14, from the form check against Table 11-2, and the taking and the dropping of a malformed request. -/
theorem malformedRequestIsBadRequest : Obligations.MalformedRequestIsBadRequest :=
  ⟨fun p t client seq kind payload _ => (decodeGood_eq_unknownKind_iff p t client seq kind payload).trans no_row_iff.symm,
    fun _ _ _ _ _ htaken => exec_unknownKind_of_taken htaken,
    fun _ _ _ _ _ hl hf => exec_of_faulted rfl nofun hl hf⟩

/-! ### PROBE -/

/-- Table 11-9, offset 10: bit n of the byte is the n-th of the Booleans. -/
theorem getLsbD_flagsByte (bs : List Bool) (i : Nat) :
    (flagsByte bs).getLsbD i = (decide (i < 8) && bs.getD i false) := by
  induction bs generalizing i with
  | nil => simp [flagsByte]
  | cons b bs ih =>
    have hcons : flagsByte (b :: bs) = (flagsByte bs <<< 1) ||| (if b then 1#8 else 0#8) := rfl
    rw [hcons, BitVec.getLsbD_or, BitVec.getLsbD_shiftLeft]
    cases i with
    | zero => cases b <;> rfl
    | succ i =>
      have hbit : (if b then 1#8 else 0#8).getLsbD (i + 1) = false := by
        cases b <;> simp [BitVec.getLsbD_one]
      rw [hbit, Nat.add_sub_cancel, ih]
      by_cases hi : i + 1 < 8
      · simp [hi, (Nat.lt_succ_self i).trans hi]
      · simp [hi]

/-- R153: bit n of PROBE's link states says whether port n is FAULTED. -/
theorem getLsbD_faulted (s : State) (p q : Port) :
    (flagsByte (s.viewProbe p).faulted).getLsbD q.val = decide ((s.port q).link = .faulted) := by
  have hports : allPorts = List.finRange 8 := by decide
  rw [getLsbD_flagsByte]
  simp [State.viewProbe, hports, beq_eq_decide]

/-- The link state of every port stands when the frame of a port has ended. -/
theorem State.link_setPort_ended (s : State) (p q : Port) :
    ((s.setPort p { s.port p with frame := none, score := (s.port p).score - 1 }).port q).link = (s.port q).link := by
  rw [State.port_setPort]
  split
  · next h => rw [h]
  · rfl

/-- Settles O13, from the view of the part once the PROBE's own frame has ended, and the byte of the link states. -/
theorem probeReportsThePart : Obligations.ProbeReportsThePart := by
  refine ⟨fun p t client seq payload hne => ?_, fun s p h hl hf => exec_of_faulted rfl nofun hl hf,
    fun s p h htaken => ?_⟩
  · exact decodeGood_malformed (k := .probe) rfl rfl (by simpa using hne)
  · refine ⟨_, exec_probe_of_taken htaken, rfl, ?_, ?_, ?_, _, fun q => (getLsbD_faulted _ p q).trans ?_,
      (getLsbD_faulted _ p p).trans ?_, rfl⟩
    · simp [State.viewProbe]
    · simp [State.viewProbe]
    · simp [State.viewProbe]
    · rw [s.link_setPort_ended]
    · rw [s.link_setPort_ended, htaken.1]
      rfl

end Sys2Proof.Machine
end

section
/-! PROOFS. The bytes that a frame's bits assemble to (R138), and the class of the frame at its end (R140). -/

namespace Sys2Proof.Machine

open Sys2Proof.Claims

/-! ### Bits and bytes -/

/-- Eight bits are those of the byte that they assemble to (R138). -/
theorem byteBits_byteOfBits {bits : List Bool} (h : bits.length = 8) : byteBits (byteOfBits bits) = bits :=
  match bits, h with
  | [a, b, c, d, e, f, g, i], _ => by revert a b c d e f g i; decide

theorem bitsOf_append (xs ys : List Byte) : bitsOf (xs ++ ys) = bitsOf xs ++ bitsOf ys := List.flatMap_append

theorem bitsOf_cons (b : Byte) (bs : List Byte) : bitsOf (b :: bs) = byteBits b ++ bitsOf bs := rfl

@[simp] theorem length_byteBits (b : Byte) : (byteBits b).length = 8 := rfl

@[simp] theorem length_bitsOf (bs : List Byte) : (bitsOf bs).length = 8 * bs.length := by
  induction bs with
  | nil => rfl
  | cons b bs ih => rw [bitsOf_cons, List.length_append, length_byteBits, ih, List.length_cons]; omega

/-- A byte travels most significant bit first (Section 10.2). -/
theorem getElem?_byteBits (b : Byte) {j : Nat} (hj : j < 8) : (byteBits b)[j]? = some (b.getLsbD (7 - j)) := by
  interval_cases j <;> rfl

/-- Bit `j` of byte `k` of some bytes, on the lines. -/
theorem getElem?_bitsOf {bs : List Byte} {k j : Nat} {b : Byte} (hb : bs[k]? = some b) (hj : j < 8) :
    (bitsOf bs)[8 * k + j]? = some (b.getLsbD (7 - j)) := by
  induction bs generalizing k with
  | nil => cases hb
  | cons x bs ih =>
    rw [bitsOf_cons]
    cases k with
    | zero =>
      cases hb
      rw [List.getElem?_append_left (by simpa using hj), Nat.mul_zero, Nat.zero_add, getElem?_byteBits b hj]
    | succ k =>
      rw [List.getElem?_append_right (by simp; omega), length_byteBits, ← ih hb]
      congr 1
      omega

/-- Any bits are those of whole bytes, and fewer than eight more (R138). -/
theorem exists_bytes_extra (bits : List Bool) :
    ∃ (bytes : List Byte) (extra : List Bool), extra.length < 8 ∧ bits = bitsOf bytes ++ extra := by
  induction bits using List.reverseRecOn with
  | nil => exact ⟨[], [], by decide, rfl⟩
  | append_singleton bits b ih =>
    obtain ⟨bytes, extra, hextra, rfl⟩ := ih
    by_cases hlt : extra.length < 7
    · exact ⟨bytes, extra ++ [b], by simp; omega, List.append_assoc _ _ _⟩
    · refine ⟨bytes ++ [byteOfBits (extra ++ [b])], [], by decide, ?_⟩
      have hbyte : bitsOf [byteOfBits (extra ++ [b])] = extra ++ [b] := by
        rw [bitsOf_cons, byteBits_byteOfBits (by simp; omega)]
        exact List.append_nil _
      rw [bitsOf_append, hbyte, List.append_nil, List.append_assoc]

/-! ### What is received -/

/-- Fewer bits than complete a byte are only gathered. -/
theorem foldl_clock_partial (extra : List Bool) (r : Reception) (h : r.bits.length + extra.length < 8) :
    extra.foldl Reception.clock r = { r with bits := r.bits ++ extra } := by
  induction extra generalizing r with
  | nil => simp
  | cons b extra ih =>
    rw [List.length_cons] at h
    have hclock : r.clock b = { r with bits := r.bits ++ [b] } := if_pos (by omega)
    rw [List.foldl_cons, hclock, ih _ (by simp; omega)]
    simp

/-- R138: of a frame's whole bytes the first 64 are kept and every one is counted. -/
theorem receive_bitsOf_append (bytes : List Byte) {extra : List Bool} (h : extra.length < 8) :
    receive (bitsOf bytes ++ extra) = { bytes := bytes.take 64, count := bytes.length, bits := extra } := by
  have hsplit : receive (bitsOf bytes ++ extra) = extra.foldl Reception.clock (receive (bitsOf bytes)) :=
    List.foldl_append
  rw [hsplit, receive_bitsOf, foldl_clock_partial extra _ (by simpa using h)]
  rfl

/-! ### The check byte -/

/-- A shift of the check register loses no 1: the polynomial has bit 0 (R165). -/
theorem crcShift_eq_zero_iff (r : Byte) : crcShift r = 0#8 ↔ r = 0#8 := by
  revert r
  decide

/-- R165: the register is 0 after a byte exactly where the byte equals the register before it. -/
theorem crcByte_eq_zero_iff (r b : Byte) : crcByte r b = 0#8 ↔ b = r := by
  unfold crcByte
  simp only [crcShift_eq_zero_iff]
  rw [BitVec.xor_eq_zero_iff, eq_comm]

/-- R165: the receiver's test over a whole frame compares its last byte with the check over the others. -/
theorem crc8_concat_eq_zero_iff (bs : List Byte) (b : Byte) : crc8 (bs ++ [b]) = 0#8 ↔ b = crc8 bs := by
  rw [crc8, List.foldl_concat, crcByte_eq_zero_iff]
  rfl

/-- The same by the last byte of a frame. -/
theorem crc8_eq_zero_iff {bs : List Byte} {b : Byte} (h : bs.getLast? = some b) : crc8 bs = 0#8 ↔ b = crc8 bs.dropLast := by
  conv_lhs => rw [← List.dropLast_append_getLast? b h]
  exact crc8_concat_eq_zero_iff bs.dropLast b

/-! ### The class of a frame -/

/-- A good frame is never the command of a bad one. -/
theorem decodeGood_ne_badFrame (p : Port) (t : Timing) (client seq kind : Byte) (payload : List Byte) (f : RawFrame) :
    decodeGood p t client seq kind payload ≠ .badFrame f := by
  unfold decodeGood
  split
  · nofun
  · nofun
  · split <;> nofun
  · split <;> nofun
  · split
    · exact commandOf_ne rfl
    · nofun

/-- R140: a frame with a complete byte is good where none of the four conditions holds. -/
theorem good_receive_iff (len : Byte) (rest : List Byte) {extra : List Bool} (h : extra.length < 8) :
    (receive (bitsOf (len :: rest) ++ extra)).good = true ↔
      extra = [] ∧ 5 ≤ len.toNat ∧ len.toNat ≤ 64 ∧ (len :: rest).length = len.toNat ∧ crc8 (len :: rest) = 0#8 := by
  have hgood : (receive (bitsOf (len :: rest) ++ extra)).good = true ↔
      extra = [] ∧ 5 ≤ len.toNat ∧ len.toNat ≤ 64 ∧ (len :: rest).length = len.toNat ∧
        crc8 ((len :: rest).take 64) = 0#8 := by
    rw [receive_bitsOf_append _ h]
    simp [Reception.good, and_assoc]
  rw [hgood]
  refine and_congr_right fun _ => and_congr_right fun _ => and_congr_right fun hle => and_congr_right fun hlen => ?_
  rw [List.take_of_length_le (hlen ▸ hle)]

/-- A frame without a complete byte is not good (R140). -/
theorem good_receive_nil {extra : List Bool} (h : extra.length < 8) : (receive (bitsOf [] ++ extra)).good = false := by
  rw [receive_bitsOf_append [] h]
  rfl

/-- A frame of at least five bytes has the four bytes of Table 11-1 before its payload. -/
theorem exists_frame_header {bytes : List Byte} (h : 5 ≤ bytes.length) :
    ∃ len client seq kind rest, bytes = len :: client :: seq :: kind :: rest :=
  match bytes, h with
  | len :: client :: seq :: kind :: rest, _ => ⟨len, client, seq, kind, rest, rfl⟩

/-- R140: the command of a frame in which a bit was clocked is a bad frame's exactly where the frame is not good. -/
theorem decodeFrame_eq_badFrame_iff (p : Port) (t : Timing) {bytes : List Byte} {extra : List Bool}
    (h : extra.length < 8) (hne : bitsOf bytes ++ extra ≠ []) :
    decodeFrame p t (bitsOf bytes ++ extra) = .badFrame ⟨p, bitsOf bytes ++ extra⟩ ↔
      (receive (bitsOf bytes ++ extra)).good = false := by
  unfold decodeFrame
  rw [if_neg hne]
  cases hgood : (receive (bitsOf bytes ++ extra)).good with
  | false => simp
  | true =>
    have hlong : 5 ≤ bytes.length := by
      cases bytes with
      | nil => cases (good_receive_nil h).symm.trans hgood
      | cons len rest =>
        obtain ⟨-, hmin, -, hlen, -⟩ := (good_receive_iff len rest h).mp hgood
        exact hlen ▸ hmin
    obtain ⟨len, client, seq, kind, rest, rfl⟩ := exists_frame_header hlong
    simp [receive_bitsOf_append _ h, decodeGood_ne_badFrame]

/-- R140: the four conditions, against a frame that is not good. -/
theorem not_good_receive_iff {bytes : List Byte} {extra : List Bool} (h : extra.length < 8)
    (hne : bytes ≠ [] ∨ extra ≠ []) :
    (receive (bitsOf bytes ++ extra)).good = false ↔
      extra ≠ [] ∨
      (∃ len ∈ bytes.head?, len.toNat < 5 ∨ 64 < len.toNat) ∨
      (∃ len ∈ bytes.head?, bytes.length ≠ len.toNat) ∨
      ∃ check ∈ bytes.getLast?, check ≠ crc8 bytes.dropLast := by
  cases bytes with
  | nil => exact iff_of_true (good_receive_nil h) (.inl (hne.resolve_left (not_not_intro rfl)))
  | cons len rest =>
    have hlast : (len :: rest).getLast? = some ((len :: rest).getLast (List.cons_ne_nil _ _)) :=
      List.getLast?_eq_some_getLast _
    rw [← Bool.not_eq_true, good_receive_iff len rest h, crc8_eq_zero_iff hlast, hlast]
    simp only [Option.mem_def, List.head?_cons, Option.some.injEq, exists_eq_left', not_and_or, not_le, or_assoc, ne_eq]

/-- Settles O5: any bits are whole bytes and a part of one, and the class of a frame by what it has received. -/
theorem frameIsBadExactlyWhen : Obligations.FrameIsBadExactlyWhen := by
  refine ⟨fun p t bytes extra hextra hne => ?_, fun bits => ?_, fun p t => rfl⟩
  · have hbits : bitsOf bytes ++ extra ≠ [] := by
      cases bytes with
      | nil => exact hne.resolve_left (not_not_intro rfl)
      | cons b bs => exact List.cons_ne_nil _ _
    exact (decodeFrame_eq_badFrame_iff p t hextra hbits).trans (not_good_receive_iff hextra hne)
  · obtain ⟨bytes, extra, hextra, rfl⟩ := exists_bytes_extra bits
    refine ⟨bytes, extra, hextra, rfl, fun k j b hb hj => ?_, receive_bitsOf_append bytes hextra⟩
    have hbit := getElem?_bitsOf hb hj
    rw [List.getElem?_append_left (List.getElem?_eq_some_iff.mp hbit).1, hbit]

end Sys2Proof.Machine
end

section
/-! PROOFS. The check byte (R165), the slot view (R162) and the resource view (R163) as bytes. -/

namespace Sys2Proof.Machine

open Sys2Proof.Claims

/-! ### The check byte -/

/-- The shift of R165 by the bit shifted out, bit 7. -/
theorem crcShift_eq_shifted (r : Byte) : crcShift r = shifted r := by
  rw [crcShift, shifted, BitVec.msb_eq_getLsbD_last]

/-- A covered byte is combined with the register, which is then shifted eight times (R165). -/
theorem crcByte_eq_shiftedEight (r b : Byte) : crcByte r b = shiftedEight (r ^^^ b) := by
  simp only [crcByte, crcShift_eq_shifted]
  rfl

/-- R165: the check of one byte more continues from the check of those before it. -/
theorem crc8_concat (bs : List Byte) (b : Byte) : crc8 (bs ++ [b]) = shiftedEight (crc8 bs ^^^ b) := by
  rw [crc8, List.foldl_concat, crcByte_eq_shiftedEight]
  rfl

/-- A good frame has passed the receiver's test (R140, R165). -/
theorem Reception.crc8_of_good {r : Reception} (h : r.good = true) : crc8 r.bytes = 0#8 := by
  unfold Reception.good at h
  split at h
  · cases h
  · simp only [Bool.and_eq_true, beq_iff_eq] at h
    obtain ⟨-, hcheck⟩ := h
    exact hcheck

/-- Settles O4: the recurrence and the receiver's test at the last byte, and the frames as covered bytes with their check. -/
theorem checkByteIsTheCrc : Obligations.CheckByteIsTheCrc :=
  ⟨rfl, crc8_concat, crc8_concat_eq_zero_iff, fun _ => ⟨_, rfl⟩, fun a => ⟨answerCovered a, rfl⟩,
    fun _ => Reception.crc8_of_good, by decide +kernel, by decide, by decide, by decide, by decide +kernel⟩

/-! ### Lengths of the wider fields -/

@[simp] theorem length_bytes16 (w : BitVec 16) : (bytes16 w).length = 2 := rfl

@[simp] theorem length_bytes32 (w : BitVec 32) : (bytes32 w).length = 4 := rfl

@[simp] theorem length_bytes40 (w : BitVec 40) : (bytes40 w).length = 5 := rfl

/-! ### The slot view -/

/-- A slot view is 21 bytes long whatever it shows (R162). -/
@[simp] theorem length_slotViewBytes (v : SlotView) : (slotViewBytes v).length = 21 := rfl

/-- Settles O7: each state's view has the fields of Table 7-3, and the bytes of Table 11-7 follow field by field. -/
theorem slotViewBytesByState : Obligations.SlotViewBytesByState :=
  ⟨fun _ => rfl, fun _ _ => rfl, fun i mark => ⟨fun x => length_slotViewBytes (viewOf i mark x), rfl, fun _ _ _ => rfl,
    fun _ _ _ => rfl, fun _ _ _ _ => rfl, fun _ _ _ _ _ => rfl, fun _ _ _ _ => rfl, fun _ _ _ => rfl,
    rfl, rfl, rfl, rfl, rfl, rfl, rfl⟩⟩

/-! ### Packed fields as numbers -/

/-- The number two adjoined fields hold: the upper one counts in steps past the greatest value of the lower. -/
theorem toNat_append_eq_add {m n : Nat} (x : BitVec m) (y : BitVec n) : (x ++ y).toNat = 2 ^ n * x.toNat + y.toNat := by
  rw [BitVec.toNat_append, ← Nat.shiftLeft_add_eq_or_of_lt y.isLt, Nat.shiftLeft_eq, Nat.mul_comm]

/-- The client, slot and mode of a holder item in its first byte (Table 11-8). -/
theorem toNat_holder_place (h : HolderView) :
    (BitVec.ofNat 4 h.client.val ++ (BitVec.ofNat 3 h.slot.val ++ modeBit h.mode)).toNat =
      16 * h.client.val + 2 * h.slot.val + (if h.mode = .shared then 1 else 0) := by
  have hmode : (modeBit h.mode).toNat = if h.mode = .shared then 1 else 0 := by cases h.mode <;> rfl
  rw [toNat_append_eq_add, toNat_append_eq_add, hmode, BitVec.toNat_ofNat, BitVec.toNat_ofNat]
  omega

/-- The state, share limit and rank of a resource view in its byte 2 (Table 11-8). -/
theorem toNat_state_limit_rank {limit : Nat} (state : RecordState) (rank : Fin 16) (hpos : 1 ≤ limit) (hle : limit ≤ 8) :
    (BitVec.ofBool (state == .draining) ++ (BitVec.ofNat 3 (limit - 1) ++ BitVec.ofNat 4 rank.val)).toNat =
      (if state = .draining then 128 else 0) + 16 * (limit - 1) + rank.val := by
  have hstate : 128 * (BitVec.ofBool (state == .draining)).toNat = if state = .draining then 128 else 0 := by
    cases state <;> rfl
  rw [toNat_append_eq_add, toNat_append_eq_add, ← hstate, BitVec.toNat_ofNat, BitVec.toNat_ofNat]
  omega

/-- The gate channel and dead time of a gated record in bytes 7-8 (Table 11-8); a dead time of R6 fits its ten bits. -/
theorem toNat_gateField (g : ChannelId) {d : Half} (hd : d.toNat ≤ 1000) :
    (gateField (some (g, d))).toNat = 32768 + 2048 * g.val + d.toNat := by
  have hlow : (d.extractLsb' 0 10).toNat = d.toNat := by
    rw [BitVec.extractLsb'_toNat, Nat.shiftRight_zero]
    omega
  rw [gateField, toNat_append_eq_add, toNat_append_eq_add, toNat_append_eq_add, hlow, BitVec.toNat_ofNat,
    BitVec.toNat_ofNat, BitVec.toNat_ofNat]
  omega

/-- The waiter count and the head waiter's priority in byte 9 (Table 11-8). -/
theorem toNat_waiters_priority {count : Nat} (priority : Option Priority) (hle : count ≤ 16) :
    (BitVec.ofNat 5 count ++ BitVec.ofNat 3 ((priority.map Fin.val).getD 0)).toNat =
      8 * count + (priority.map Fin.val).getD 0 := by
  have hpriority : (priority.map Fin.val).getD 0 < 8 := by
    cases priority with
    | none => decide
    | some q => exact q.isLt
  rw [toNat_append_eq_add, BitVec.toNat_ofNat, BitVec.toNat_ofNat]
  omega

/-! ### The resource view -/

@[simp] theorem length_holderBytes (h : HolderView) : (holderBytes h).length = 6 := rfl

/-- A resource view is its ten-byte fixed part and six bytes for each holder (R163). -/
theorem length_resourceViewBytes (v : ResourceView) : (resourceViewBytes v).length = 10 + 6 * v.holders.length := by
  simp [resourceViewBytes]
  omega

/-- Settles O8, from the number that each packed byte holds and the length of the view. -/
theorem resourceViewBytes_layout : Obligations.ResourceViewBytes := by
  intro v hpos hle hcount hgate
  refine ⟨?_, rfl, _, _, gateField v.gate, rfl, toNat_state_limit_rank v.state v.rank hpos hle, fun hnone => ?_,
    fun g d hsome => ?_, toNat_waiters_priority v.headPriority hcount, fun h _ => ⟨_, rfl, toNat_holder_place h⟩⟩
  · have hlength : (payloadBytes (.resourceView v)).length = 10 + 6 * v.holders.length := length_resourceViewBytes v
    omega
  · rw [hnone]
    rfl
  · rw [hsome]
    exact toNat_gateField g (hgate (g, d) hsome)

end Sys2Proof.Machine
end

section
/-! PROOFS. What a command is made of: writes of its own port unit, requests carried out, and events taken. The step (R145,
log entries 3 and 4), the independence of the ports (R148), and the tables after a chip reset. -/

namespace Sys2Proof.Machine

open Sys2Proof.Claims Sys2Proof.Safety

/-! ### The effects of a command -/

/-- One effect that a command on the port `own` can have. `checked` says that every request carried out has been
passed on by a screening that its client still agrees with (R126). -/
inductive Effect (checked : Prop) (own : Option Port) : State → State → Prop where
  /-- The command's own port unit is written, its frame in progress kept or ended. -/
  | port {s : State} (q : Port) (x : PortUnit) (hq : own = some q)
      (hx : x.frame = (s.port q).frame ∨ x.frame = none) : Effect checked own s (s.setPort q x)
  /-- A screened request of any port is answered, and its answer waits to be placed (log entry 2). -/
  | answered {s : State} (q : Port) (r : Request) (k : Passage) (a : Answer)
      (hq : (s.port q).slot = .working (.screened r k)) :
      Effect checked own s (s.setResponse q (.working (.done a)))
  /-- A screened request is carried out. -/
  | carried {s : State} (k : Passage) (q : Port) (r : Request)
      (hk : checked → screen (s.client r.header.client) q r = .passed k) :
      Effect checked own s (carryScreened k q r s).1
  /-- A port's fault is taken for one client (R35). -/
  | fault {s : State} (q : Port) (c : ClientId) : Effect checked own s (s.faultClient q c)
  /-- A SUSPECT client returns to OPEN (R38). -/
  | reopened {s : State} (q : Port) (c : ClientId) : Effect checked own s (s.reopen q c)
  | waitDeadline {s : State} (c : ClientId) (i : SlotId) : Effect checked own s (s.waitDeadline c i)
  | expired {s : State} (c : ClientId) (i : SlotId) : Effect checked own s (s.expire c i)
  | revoked {s : State} (c : ClientId) (i : SlotId) : Effect checked own s (s.revoke c i)
  /-- A settle timer counts (R93). -/
  | settling {s : State} (g : ChannelId) (e d : Nat) (hg : (s.channel g).state = .settling e) :
      Effect checked own s (s.setChannel g { s.channel g with state := .settling d })
  /-- A settle ends (R94, R95). -/
  | settled {s : State} (g : ChannelId) (e : Nat) (hg : (s.channel g).state = .settling e) :
      Effect checked own s (s.settleEnds g)
  /-- The lease clock advances (R59). -/
  | ticked {s : State} (now : Clock) : Effect checked own s (s.clockAt now)
  /-- The reset mark is cleared (R137). -/
  | resetEnded {s : State} : Effect checked own s { s with inReset := false }

/-- Some effects, one after the other. -/
inductive Effects (checked : Prop) (own : Option Port) (s : State) : State → Prop where
  | refl : Effects checked own s s
  | tail {t u : State} (h : Effects checked own s t) (k : Effect checked own t u) : Effects checked own s u

section

variable {checked : Prop} {own : Option Port} {s t u : State} {p : Port}

theorem Effects.single (h : Effect checked own s t) : Effects checked own s t := .tail .refl h

theorem Effects.trans (h : Effects checked own s t) (k : Effects checked own t u) : Effects checked own s u := by
  induction k with
  | refl => exact h
  | tail _ he ih => exact ih.tail he

/-- A fold of operations each of which is some effects. -/
theorem Effects.foldl {α : Type} {f : State → α → State} (hf : ∀ u a, Effects checked own u (f u a)) (l : List α)
    (h : Effects checked own s t) : Effects checked own s (l.foldl f t) :=
  List.foldlRecOn l f (motive := Effects checked own s) h fun u hu a _ => hu.trans (hf u a)

/-- The response slot of the command's own port is written. -/
theorem Effects.setResponse (x : ResponseSlot) : Effects checked (some p) s (s.setResponse p x) :=
  .single (.port p { s.port p with slot := x } rfl (.inl rfl))

/-- A request screened earlier is carried out where its screening still holds (R135). -/
theorem Effects.carryEarlierOn (s : State) (c : ClientId) (q : Port) : Effects checked own s (s.carryEarlierOn c q) := by
  obtain e | ⟨r, k, hslot, hc, -, hscreen, e⟩ := s.carryEarlierOn_cases c q
  · rw [e]; exact .refl
  · rw [e]
    subst hc
    refine .tail (.single (.carried k q r fun _ => hscreen)) (.answered q r k _ ?_)
    rw [← hslot]
    exact congrArg (fun v : Vector PortUnit 8 => v[q].slot) (carryScreened_tablesOnly s k q r).ports

theorem Effects.carryEarlier (s : State) (c : ClientId) : Effects checked own s (s.carryEarlier c) :=
  .foldl (fun u q => .carryEarlierOn u c q) allPorts .refl

/-- A request is screened, and carried out where its screening passes it on. -/
theorem Effects.carryOut (s : State) (q : Port) (r : Request) : Effects checked own s (carryOut q r s).1 := by
  unfold Machine.carryOut
  split
  · exact .refl
  · next k hk => exact .single (.carried k q r fun _ => hk)

theorem Effects.carryHanded (s : State) (q : Port) (r : Request) : Effects checked own s (s.carryHanded q r).1 :=
  (Effects.carryEarlier s _).trans (.carryOut _ q r)

theorem Effects.take (s : State) (r : Request) (tm : Timing) : Effects checked (some p) s (s.take p r tm) := by
  cases tm with
  | later => exact .setResponse _
  | atFrameEnd => exact ((Effects.setResponse _).trans (.carryHanded _ p r)).trans (.setResponse _)

theorem Effects.screenHanded (s : State) : Effects checked (some p) s (s.screenHanded p) := by
  unfold State.screenHanded
  split
  · split <;> exact (Effects.carryEarlier s _).trans (.setResponse _)
  all_goals exact .refl

theorem Effects.takeFault (s : State) : Effects checked (some p) s (s.takeFault p) := by
  unfold State.takeFault State.suspendClients
  split
  · exact .foldl (fun _ c => .single (.fault p c)) allClients
      ((Effects.screenHanded s).tail (.port p _ rfl (.inl rfl)))
  · exact .refl

theorem Effects.resetLink (s : State) (seq : Byte) : Effects checked (some p) s (s.resetLink p seq) := by
  unfold State.resetLink
  refine .trans (.foldl (fun _ c => .single (.reopened p c)) allClients ?_) (.setResponse _)
  exact (Effects.takeFault s).tail (.port p _ rfl (.inl rfl))

/-- The end of a good frame, where the taking of its request is some effects. -/
theorem Effects.goodFrame (s : State) (bytes : List Byte) {taken : State → State}
    (ht : ∀ u, Effects checked (some p) u (taken u)) : Effects checked (some p) s (s.goodFrame p bytes taken) := by
  obtain ⟨-, e⟩ | ⟨-, -, e⟩ | ⟨-, -, -, -, e⟩ | ⟨-, -, -, -, e⟩ := s.goodFrame_cases p bytes taken
  · rw [e]; exact .refl
  · rw [e]; exact .single (.port p _ rfl (.inr rfl))
  · rw [e]; exact .single (.port p _ rfl (.inr rfl))
  · rw [e]; exact .trans (.single (.port p _ rfl (.inr rfl))) (ht _)

/-- The end of a bad frame leaves no frame in progress (R142). -/
theorem PortUnit.bad_frame (u : PortUnit) : u.bad.frame = none := by
  unfold PortUnit.bad
  cases u.link with
  | faulted => rfl
  | up => dsimp only; split <;> rfl

theorem Effects.endBad (s : State) (bits : List Bool) :
    Effects checked (some p) s ((s.clockIn p bits).endBad p) := by
  cases hf : (s.port p).frame with
  | none => simp only [s.clockIn_none p bits hf, State.endBad, hf]; exact .refl
  | some f => rw [s.endBad_clockIn p bits f hf]; exact .single (.port p _ rfl (.inr (PortUnit.bad_frame _)))

/-- LINK_RESET, by the link state and the response slot of its port. -/
theorem Effects.linkReset {h : Header} (he : exec (.linkReset p h) s = .next t) : Effects checked (some p) s t := by
  cases he
  split
  · exact .refl
  · exact .goodFrame s _ fun u => .resetLink u h.seq
  · split
    · exact .single (.port p _ rfl (.inr rfl))
    · exact .trans (.single (.port p { s.port p with frame := none } rfl (.inr rfl))) (.resetLink _ h.seq)
    · exact .trans (.single (.port p { s.port p with frame := none } rfl (.inr rfl))) (.resetLink _ h.seq)

/-- ANSWER_PLACED, by the stage of the request in processing. -/
theorem Effects.answerPlaced (hs : checked → ScreenedLawful s) (he : exec (.answerPlaced p) s = .next t) :
    Effects checked (some p) s t := by
  cases he
  split
  · exact .setResponse _
  · next r k hslot =>
    refine .trans (.single (.carried k p r fun hc => ?_)) (.setResponse _)
    obtain ⟨-, -, hscreen, -⟩ := hs hc p (r, k) (by simp [screenedOn, hslot])
    exact hscreen
  · exact (Effects.carryHanded s p _).trans (.setResponse _)
  · exact .refl
  · exact .refl

/-- SETTLE_END, by the state of its channel. -/
theorem Effects.settleEnd {g : ChannelId} {us : Nat} (he : exec (.settleEnd g us) s = .next t) :
    Effects checked own s t := by
  cases he
  split
  · next e hg =>
    split
    · exact .single (.settled g e hg)
    · exact .single (.settling g e _ hg)
  · exact .refl
  · exact .refl

/-- A command's next state, where it is given by a function. -/
theorem effects_of_exec {i : Instr} {u : State} (he : exec i s = .next t) (hu : exec i s = .next u)
    (h : Effects checked own s u) : Effects checked own s t := by
  obtain rfl := Host.Outcome.next.inj (hu.symm.trans he)
  exact h

/-- Every command but FRAME_START and CHIP_RESET is some effects on its own port, its clients and the tables. -/
theorem effects_of_command {i : Instr} (hs : checked → ScreenedLawful s) (hstart : ∀ q, i ≠ .frameStart q)
    (hreset : i ≠ .chipReset) (he : exec i s = .next t) : Effects checked (portOf i) s t := by
  cases hg : goodFrame i with
  | some x =>
    obtain ⟨p, len⟩ := x
    have hown : portOf i = some p := by
      unfold portOf
      split <;> first | cases hg | simp [hg]
    rw [hown]
    obtain ⟨r, tm, hc, -⟩ | ⟨h, kind, payload, rfl, -⟩ | ⟨f, rfl, -⟩ | ⟨h, rfl, -⟩ | ⟨h, rfl, -⟩ := goodFrame_eq_some hg
    · exact effects_of_exec he (exec_of_clientRequest hc s) (.goodFrame s _ fun u => .take u r tm)
    · exact effects_of_exec he rfl (.goodFrame s _ fun _ => .setResponse _)
    · exact effects_of_exec he rfl (.goodFrame s _ fun _ => .setResponse _)
    · exact effects_of_exec he rfl (.goodFrame s _ fun _ => .setResponse _)
    · exact .linkReset he
  | none =>
    cases i with
    | frameStart p => exact absurd rfl (hstart p)
    | badFrame f => exact effects_of_exec he rfl (.endBad s f.bits)
    | answerPlaced p => exact .answerPlaced hs he
    | portFault p => exact effects_of_exec he rfl (.takeFault s)
    | waitDeadline c j => exact effects_of_exec he rfl (.single (.waitDeadline c j))
    | expiry c j => exact effects_of_exec he rfl (.single (.expired c j))
    | revocation c j => exact effects_of_exec he rfl (.single (.revoked c j))
    | settleEnd g us => exact .settleEnd he
    | chipReset => exact absurd rfl hreset
    | leaseClockTick =>
      cases he
      split
      · exact .refl
      · exact .single (.ticked _)
    | unclockedFrame p => exact effects_of_exec he rfl (.single (.port p _ rfl (.inr rfl)))
    | endOfReset => exact effects_of_exec he rfl (.single .resetEnded)
    | _ => cases hg

end

/-! ### What every effect does to the port units and the queue of commands -/

/-- Between the states `s` and `t` a port unit may be written by the command on the port `own`, and a screened request answered
on any port; frames in progress are kept or ended, and the queue of commands stands. -/
structure PortsMoved (own : Option Port) (s t : State) : Prop where
  pending : t.pending = s.pending
  frame : ∀ q, (t.port q).frame = (s.port q).frame ∨ (t.port q).frame = none
  port : ∀ q, own ≠ some q → t.port q = s.port q ∨
    ∃ r k a, (s.port q).slot = .working (.screened r k) ∧ t.port q = { s.port q with slot := .working (.done a) }

section

variable {own : Option Port} {s t u : State}

theorem PortsMoved.of_ports (hp : t.pending = s.pending) (h : t.ports = s.ports) : PortsMoved own s t := by
  have hport : ∀ q, t.port q = s.port q := fun q => congrArg (fun v : Vector PortUnit 8 => v[q]) h
  exact ⟨hp, fun q => .inl (by rw [hport]), fun q _ => .inl (hport q)⟩

theorem TablesOnly.portsMoved (h : TablesOnly s t) : PortsMoved own s t := .of_ports h.pending h.ports

theorem PortsMoved.trans (h : PortsMoved own s t) (k : PortsMoved own t u) : PortsMoved own s u := by
  refine ⟨k.pending.trans h.pending, fun q => ?_, fun q hq => ?_⟩
  · obtain e | e := k.frame q
    · rw [e]; exact h.frame q
    · exact .inr e
  · obtain e | ⟨r, j, a, hslot, e⟩ := k.port q hq
    · rw [e]; exact h.port q hq
    · obtain e' | ⟨r', j', a', -, e'⟩ := h.port q hq
      · rw [e'] at hslot e; exact .inr ⟨r, j, a, hslot, e⟩
      · rw [e'] at hslot; cases hslot

theorem State.faultClient_tablesOnly (s : State) (p : Port) (c : ClientId) : TablesOnly s (s.faultClient p c) := by
  unfold State.faultClient
  split
  · dsimp only
    split
    · split
      · have h := (s.endWait_tablesOnly c ‹_› .link).trans (State.followUp_tablesOnly _ ‹_›)
        exact ⟨h.pending, h.clock, h.inReset, h.ports⟩
      · exact ⟨rfl, rfl, rfl, rfl⟩
    · exact ⟨rfl, rfl, rfl, rfl⟩
  · exact .rfl' s

theorem State.reopen_tablesOnly (s : State) (p : Port) (c : ClientId) : TablesOnly s (s.reopen p c) := by
  unfold State.reopen
  split <;> exact ⟨rfl, rfl, rfl, rfl⟩

/-- R148: an effect of a command reaches no other port's unit, but for a screened request that is answered. -/
theorem Effect.portsMoved {checked : Prop} (h : Effect checked own s t) : PortsMoved own s t := by
  cases h with
  | port q x hq hx =>
    refine ⟨rfl, fun d => ?_, fun d hd => .inl ?_⟩
    · rw [State.port_setPort]
      split
      · next e => exact e ▸ hx
      · exact .inl rfl
    · rw [State.port_setPort, if_neg (fun e => hd (hq.trans (congrArg some e)))]
  | answered q r k a hq =>
    refine ⟨rfl, fun d => .inl ?_, fun d _ => ?_⟩
    · rw [State.port_setResponse]
      split
      · next e => rw [e]
      · rfl
    · rw [State.port_setResponse]
      split
      · next e => exact e ▸ .inr ⟨r, k, a, hq, rfl⟩
      · exact .inl rfl
  | carried k q r => exact (carryScreened_tablesOnly s k q r).portsMoved
  | fault q c => exact (s.faultClient_tablesOnly q c).portsMoved
  | reopened q c => exact (s.reopen_tablesOnly q c).portsMoved
  | waitDeadline c i => exact (s.waitDeadline_tablesOnly c i).portsMoved
  | expired c i => exact (s.expire_tablesOnly c i).portsMoved
  | revoked c i => exact (s.revoke_tablesOnly c i).portsMoved
  | settled g => exact (s.settleEnds_tablesOnly g).portsMoved
  | settling | ticked | resetEnded => exact .of_ports rfl rfl

theorem Effects.portsMoved {checked : Prop} (h : Effects checked own s t) : PortsMoved own s t := by
  induction h with
  | refl => exact .of_ports rfl rfl
  | tail _ he ih => exact ih.trans he.portsMoved

/-- What every command but FRAME_START and CHIP_RESET does to the port units. -/
theorem portsMoved_of_command {i : Instr} (hstart : ∀ q, i ≠ .frameStart q) (hreset : i ≠ .chipReset)
    (he : exec i s = .next t) : PortsMoved (portOf i) s t :=
  (effects_of_command (checked := False) False.elim hstart hreset he).portsMoved

/-- FRAME_START writes its own port unit, where no frame is in progress on it, or nothing. -/
theorem frameStart_cases {q : Port} (he : exec (.frameStart q) s = .next t) :
    t = s ∨ ((s.port q).frame = none ∧ ∃ f, t = s.setPort q { s.port q with frame := some f }) := by
  cases he
  split
  · exact .inl rfl
  · next h => exact .inr ⟨by simpa using (not_or.mp h).2, _, rfl⟩

end

/-! ### The statements on every command -/

/-- Settles O1, by the step's own cases. -/
theorem stepRunsTheFrontCommand : Obligations.StepRunsTheFrontCommand := by
  refine ⟨fun s i rest h => ?_, fun s h => ?_⟩
  · unfold step
    simp only [h]
  · unfold step
    simp only [h]

/-- No command stops the machine. -/
theorem exec_completes (i : Instr) (s : State) : ∃ t, exec i s = .next t := by
  cases i <;> exact ⟨_, rfl⟩

/-- Settles O2: every arm answers a next state, and no effect of a command touches the queue. -/
theorem everyCommandCompletes : Obligations.EveryCommandCompletes := by
  intro i s
  obtain ⟨t, he⟩ := exec_completes i s
  refine ⟨t, he, ?_⟩
  by_cases hstart : ∃ q, i = .frameStart q
  · obtain ⟨q, rfl⟩ := hstart
    obtain rfl | ⟨-, f, rfl⟩ := frameStart_cases he <;> rfl
  · by_cases hreset : i = .chipReset
    · subst hreset
      cases he
      rfl
    · exact (portsMoved_of_command (fun q h => hstart ⟨q, h⟩) hreset he).pending

/-- Settles O19, from the effects of a command on the port units. -/
theorem portsAreIndependent : Obligations.PortsAreIndependent := by
  intro i s t q he hq hreset
  by_cases hstart : ∃ p, i = .frameStart p
  · obtain ⟨p, rfl⟩ := hstart
    obtain rfl | ⟨-, f, rfl⟩ := frameStart_cases he
    · exact .inl rfl
    · exact .inl (by rw [State.port_setPort, if_neg fun e => hq (congrArg some e)])
  · exact (portsMoved_of_command (fun p h => hstart ⟨p, h⟩) hreset he).port q hq

end Sys2Proof.Machine
end

section
/-! PROOFS. The generation that a grant draws (R116), and the moves that the operations over the tables are made of. -/

namespace Sys2Proof.Machine

open Sys2Proof.Claims Sys2Proof.Safety

/-! ### The values after a generation -/

/-- The value after a generation is never 0 (R115). -/
theorem nextGen_ne_zero (g : Gen) : nextGen g ≠ 0#32 := by
  unfold nextGen
  split
  · decide
  · next h => bv_omega

/-- The value after a generation as a number (R116). -/
theorem toNat_nextGen (g : Gen) : (nextGen g).toNat = if g.toNat = 4294967295 then 1 else g.toNat + 1 := by
  have hlast : g = 4294967295#32 ↔ g.toNat = 4294967295 := BitVec.toNat_inj.symm
  have hlt := g.isLt
  unfold nextGen
  by_cases h : g.toNat = 4294967295
  · rw [if_pos (hlast.mpr h), if_pos h]
    rfl
  · rw [if_neg (mt hlast.mp h), if_neg h, BitVec.toNat_add, BitVec.toNat_ofNat]
    omega

/-- The values after a generation count up from it, from 4294967295 back to 1 (R116). -/
theorem toNat_nextGen_iterate {g : Gen} (hg : g ≠ 0#32) (j : Nat) :
    (nextGen^[j] g).toNat = (g.toNat - 1 + j) % 4294967295 + 1 := by
  have hpos : g.toNat ≠ 0 := fun e => hg (BitVec.eq_of_toNat_eq e)
  have hlt := g.isLt
  induction j with
  | zero => simp only [Function.iterate_zero, id_eq]; omega
  | succ j ih =>
    rw [Function.iterate_succ_apply', toNat_nextGen, ih]
    split <;> omega

/-- As many values as there are differ from one another. -/
theorem nextGen_iterate_inj {g : Gen} (hg : g ≠ 0#32) {i j : Nat} (hi : i < 4294967295) (hj : j < 4294967295)
    (h : nextGen^[i] g = nextGen^[j] g) : i = j := by
  have e := congrArg BitVec.toNat h
  rw [toNat_nextGen_iterate hg, toNat_nextGen_iterate hg] at e
  omega

/-- What the search for an unheld value passes over, and where it stops (R116). -/
theorem skipHeld_spec (held : List Gen) (n : Nat) (g : Gen) :
    ∃ k, k ≤ n ∧ skipHeld held n g = nextGen^[k] g ∧ (∀ j, j < k → nextGen^[j] g ∈ held) ∧
      (k = n ∨ nextGen^[k] g ∉ held) := by
  induction n generalizing g with
  | zero => exact ⟨0, le_rfl, rfl, nofun, .inl rfl⟩
  | succ n ih =>
    unfold skipHeld
    split
    · next h =>
      obtain ⟨k, hk, hval, hpassed, hstop⟩ := ih (nextGen g)
      refine ⟨k + 1, Nat.succ_le_succ hk, hval, fun j hj => ?_, hstop.imp (congrArg Nat.succ) id⟩
      cases j with
      | zero => exact List.contains_iff_mem.mp h
      | succ j => exact hpassed j (Nat.lt_of_succ_lt_succ hj)
    · next h => exact ⟨0, Nat.zero_le _, rfl, nofun, .inr fun hm => h (List.contains_iff_mem.mpr hm)⟩

/-- The chip has 128 slots, so no more generations are held (R29). -/
theorem State.length_heldGenerations_le (s : State) : s.heldGenerations.length ≤ 128 := by
  have hclient (c : Client) : (c.slots.toList.filterMap Slot.holdingGen).length ≤ 8 := by
    simpa using List.length_filterMap_le Slot.holdingGen c.slots.toList
  have hlist : ∀ l : List Client,
      (l.flatMap fun c => c.slots.toList.filterMap Slot.holdingGen).length ≤ 8 * l.length := by
    intro l
    induction l with
    | nil => exact Nat.zero_le _
    | cons c l ih =>
      have h := hclient c
      simp only [List.flatMap_cons, List.length_append, List.length_cons]
      omega
  simpa [State.heldGenerations] using hlist s.clients.toList

/-- The draw: the first value after the counter that is not held (R116). -/
theorem State.drawn_spec (s : State) :
    ∃ k, k ≤ 128 ∧ s.drawn = nextGen^[k] (nextGen s.generation) ∧
      (∀ j, j < k → nextGen^[j] (nextGen s.generation) ∈ s.heldGenerations) ∧ s.drawn ∉ s.heldGenerations := by
  have hlen := s.length_heldGenerations_le
  obtain ⟨k, hk, hval, hpassed, hstop⟩ :=
    skipHeld_spec s.heldGenerations s.heldGenerations.length (nextGen s.generation)
  refine ⟨k, hk.trans hlen, hval, hpassed, fun hmem => ?_⟩
  obtain rfl | hfree := hstop
  · have hsub : (List.range (s.heldGenerations.length + 1)).map (fun j => nextGen^[j] (nextGen s.generation)) ⊆
        s.heldGenerations := by
      intro g hg
      obtain ⟨j, hj, rfl⟩ := List.mem_map.mp hg
      obtain hlt | rfl := Nat.lt_succ_iff_lt_or_eq.mp (List.mem_range.mp hj)
      · exact hpassed j hlt
      · exact (show s.drawn = _ from hval) ▸ hmem
    have hnd : ((List.range (s.heldGenerations.length + 1)).map
        fun j => nextGen^[j] (nextGen s.generation)).Nodup := by
      refine List.Nodup.map_on (fun i hi j hj h => ?_) List.nodup_range
      have hi := List.mem_range.mp hi
      have hj := List.mem_range.mp hj
      exact nextGen_iterate_inj (nextGen_ne_zero _) (by omega) (by omega) h
    have hle := (hnd.subperm hsub).length_le
    simp at hle
  · exact hfree ((show s.drawn = _ from hval) ▸ hmem)

/-- The generation drawn is carried by no holding slot (R116). -/
theorem State.drawn_not_held (s : State) (c : ClientId) (i : SlotId) : (s.slot c i).holdingGen ≠ some s.drawn := by
  obtain ⟨k, -, -, -, hfree⟩ := s.drawn_spec
  exact fun h => hfree (State.mem_heldGenerations_iff.mpr ⟨c, i, h⟩)

/-- The generation drawn is not 0 (R115). -/
theorem State.drawn_ne_zero (s : State) : s.drawn ≠ 0#32 := by
  obtain ⟨k, -, hval, -⟩ := s.drawn_spec
  rw [hval, ← Function.iterate_succ_apply, Function.iterate_succ_apply']
  exact nextGen_ne_zero _

/-! ### One grant -/

/-- What a granted waiter's slot becomes (R46): GATING while the resource's channel settles, else HELD. -/
def State.grantedSlot (s : State) (n : Name) (w : Waiter) (rest : List Waiter) : Slot :=
  let t := s.grantEntry n w rest
  match t.gateOf n with
  | some g =>
    if (t.channel g).isSettling then .gating n w.mode s.drawn else .held n w.mode s.drawn (t.after (t.termMs n))
  | none => .held n w.mode s.drawn (t.after (t.termMs n))

/-- The granted slot holds the resource with the generation drawn. -/
@[simp] theorem State.holding_grantedSlot (s : State) (n : Name) (w : Waiter) (rest : List Waiter) :
    (s.grantedSlot n w rest).holding = some (n, w.mode, s.drawn) := by
  unfold State.grantedSlot
  dsimp only
  split
  · split <;> rfl
  · rfl

/-- A grant: the lists and the counter, the granted slot, and its posting, which a GATING slot and a slot of the client's own
ACQUIRE do not have, and then the channel (R46, R48). -/
theorem State.grant_cases (s : State) (own : Option ClientId) (n : Name) (w : Waiter) (rest : List Waiter) :
    ∃ u : State, (u = (s.grantEntry n w rest).setSlot w.client w.slot (s.grantedSlot n w rest) ∨
        u = ((s.grantEntry n w rest).setSlot w.client w.slot (s.grantedSlot n w rest)).post w.client w.slot .ordinary) ∧
      (s.grant own n w rest = u ∨ ∃ g b, s.grant own n w rest = u.connect g b) := by
  unfold State.grant State.grantedSlot State.startLease
  dsimp only
  cases (s.grantEntry n w rest).gateOf n with
  | none =>
    by_cases ho : own = some w.client
    · exact ⟨_, .inl rfl, .inl (if_pos ho)⟩
    · exact ⟨_, .inr rfl, .inl (if_neg ho)⟩
  | some g =>
    dsimp only
    cases ((s.grantEntry n w rest).channel g).isSettling with
    | true => exact ⟨_, .inl rfl, .inl rfl⟩
    | false =>
      by_cases ho : own = some w.client
      · exact ⟨_, .inl rfl, .inr ⟨_, _, congrArg (State.connect · g _) (if_pos ho)⟩⟩
      · exact ⟨_, .inr rfl, .inr ⟨_, _, congrArg (State.connect · g _) (if_neg ho)⟩⟩

theorem State.grant_generation (s : State) (own : Option ClientId) (n : Name) (w : Waiter) (rest : List Waiter) :
    (s.grant own n w rest).generation = s.drawn := by
  obtain ⟨u, rfl | rfl, e | ⟨g, b, e⟩⟩ := s.grant_cases own n w rest <;> rw [e] <;> rfl

/-- A grant writes the granted slot and no other. -/
theorem State.slot_grant (s : State) (own : Option ClientId) (n : Name) (w : Waiter) (rest : List Waiter) (c : ClientId)
    (i : SlotId) : (s.grant own n w rest).slot c i =
      if w.client = c ∧ w.slot = i then s.grantedSlot n w rest else s.slot c i := by
  have hentry : (s.grantEntry n w rest).slot c i = s.slot c i := rfl
  obtain ⟨u, rfl | rfl, e | ⟨g, b, e⟩⟩ := s.grant_cases own n w rest <;> simp [e, hentry]

/-- Settles O37: the search for the first unheld value, which the counter and the granted slot take. -/
theorem drawnGenerationIsTheFirstUnheld : Obligations.DrawnGenerationIsTheFirstUnheld := by
  refine ⟨fun s => ?_, fun s own n w rest => ⟨s.grant_generation own n w rest, by simp [s.slot_grant]⟩⟩
  obtain ⟨k, hk, hval, hpassed, hfree⟩ := s.drawn_spec
  have hcarried (g : Gen) : g ∈ s.heldGenerations ↔ Carried s g := State.mem_heldGenerations_iff
  exact ⟨k, hk, hval, fun j hj => (hcarried _).mp (hpassed j hj), mt (hcarried _).mpr hfree, s.drawn_ne_zero⟩

/-! ### Moves of the tables -/

/-- One move of the slots, the change queues and the generation counter. The directory and the channels may change with any of
them. A slot that is not WAITING becomes WAITING only where `W` says so, and holds what it did not hold only by a grant. -/
inductive Move (W : ClientId → SlotId → Prop) (s t : State) : Prop where
  | lists (hc : t.clients = s.clients) (hg : t.generation = 0#32 → s.generation = 0#32)
  | queue (c : ClientId) (q : List Entry) (hc : t.clients = (s.setQueue c q).clients) (hg : t.generation = s.generation)
  | slot (c : ClientId) (i : SlotId) (x : Slot) (hw : x.isWaiting = true → W c i ∨ (s.slot c i).isWaiting = true)
      (hh : ∀ y, x.holding = some y → (s.slot c i).holding = some y)
      (hc : t.clients = (s.setSlot c i x).clients) (hg : t.generation = s.generation)
  | granted (c : ClientId) (i : SlotId) (x : Slot) (n : Name) (m : Mode) (hx : x.holding = some (n, m, s.drawn))
      (hc : t.clients = (s.setSlot c i x).clients) (hg : t.generation = s.drawn)

/-- Some moves, one after the other. -/
inductive Moves (W : ClientId → SlotId → Prop) (s : State) : State → Prop where
  | refl : Moves W s s
  | tail {t u : State} (h : Moves W s t) (k : Move W t u) : Moves W s u

/-- No slot may become WAITING. -/
def NoWait (_ : ClientId) (_ : SlotId) : Prop := False

section

variable {W : ClientId → SlotId → Prop} {s t u : State}

theorem Moves.single (h : Move W s t) : Moves W s t := .tail .refl h

theorem Moves.trans (h : Moves W s t) (k : Moves W t u) : Moves W s u := by
  induction k with
  | refl => exact h
  | tail _ he ih => exact ih.tail he

theorem Moves.foldl {α : Type} {f : State → α → State} (hf : ∀ u a, Moves W u (f u a)) (l : List α) (s : State) :
    Moves W s (l.foldl f s) :=
  List.foldlRecOn l f (motive := Moves W s) .refl fun u hu a _ => hu.trans (hf u a)

/-- The directory, the channels and the clock, where the rest stands. -/
theorem Moves.lists (hc : t.clients = s.clients) (hg : t.generation = s.generation) : Moves W s t :=
  .single (.lists hc fun h => hg ▸ h)

theorem Moves.post (s : State) (c : ClientId) (i : SlotId) (k : EntryClass) : Moves W s (s.post c i k) :=
  .single (.queue c _ rfl rfl)

theorem Moves.unpost (s : State) (c : ClientId) (i : SlotId) : Moves W s (s.unpost c i) := .single (.queue c _ rfl rfl)

/-- A slot that becomes FREE or ENDED. -/
theorem Moves.endSlot (s : State) (c : ClientId) (i : SlotId) {x : Slot} (hw : x.isWaiting = false)
    (hh : x.holding = none) : Moves W s (s.setSlot c i x) :=
  .single (.slot c i x (fun h => absurd (hw.symm.trans h) (by decide))
    (fun _ h => absurd (hh.symm.trans h) (by simp)) rfl rfl)

theorem Moves.freeSlotWrite (s : State) (c : ClientId) (i : SlotId) : Moves W s (s.setSlot c i .free) :=
  .endSlot s c i rfl rfl

/-- A holding slot rewritten with what it holds. -/
theorem Moves.keepSlot (s : State) (c : ClientId) (i : SlotId) {x : Slot} (hw : x.isWaiting = false)
    (hh : x.holding = (s.slot c i).holding) : Moves W s (s.setSlot c i x) :=
  .single (.slot c i x (fun h => absurd (hw.symm.trans h) (by decide)) (fun _ h => hh ▸ h) rfl rfl)

theorem Moves.grant (s : State) (own : Option ClientId) (n : Name) (w : Waiter) (rest : List Waiter) :
    Moves W s (s.grant own n w rest) := by
  have hslot : Moves W s ((s.grantEntry n w rest).setSlot w.client w.slot (s.grantedSlot n w rest)) :=
    .single (.granted w.client w.slot _ n w.mode (s.holding_grantedSlot n w rest) rfl rfl)
  obtain ⟨u, hu, e⟩ := s.grant_cases own n w rest
  have hu : Moves W s u := by
    obtain rfl | rfl := hu
    · exact hslot
    · exact hslot.trans (.post _ _ _ _)
  obtain e | ⟨g, b, e⟩ := e
  · exact e ▸ hu
  · exact e ▸ hu.trans (.lists rfl rfl)

theorem Moves.grantLoop (own : Option ClientId) (n : Name) (ws : List Waiter) (s : State) :
    Moves W s (grantLoop own n ws s) := by
  induction ws generalizing s with
  | nil => exact .refl
  | cons w rest ih =>
    unfold Machine.grantLoop
    split
    · split
      · exact (Moves.grant s own n w rest).trans (ih _)
      · exact .refl
    · exact .refl

theorem Moves.grantPass (s : State) (own : Option ClientId) (n : Name) : Moves W s (s.grantPass own n) := by
  unfold State.grantPass
  split
  · exact .grantLoop own n _ s
  · exact .refl

theorem Moves.applyRecall (s : State) (grace : Half) (h : Holder) (b : Bool) : Moves W s (s.applyRecall grace h b) := by
  unfold State.applyRecall
  split
  · next hx => exact (Moves.keepSlot s _ _ rfl (by rw [hx]; rfl)).trans (.post _ _ _ _)
  · next hx => exact (Moves.keepSlot s _ _ rfl (by rw [hx]; rfl)).trans (.post _ _ _ _)
  · exact .refl

theorem Moves.evalRecall (s : State) (n : Name) : Moves W s (s.evalRecall n) := by
  unfold State.evalRecall
  split
  · exact .foldl (fun u _ => .applyRecall u _ _ _) _ s
  · exact .refl

theorem Moves.holderEnd (s : State) (n : Name) : Moves W s (s.holderEnd n) := by
  unfold State.holderEnd
  split
  · exact .lists rfl rfl
  · exact .refl

theorem Moves.removeRecord (s : State) (n : Name) : Moves W s (s.removeRecord n) := by
  unfold State.removeRecord
  split <;> exact .lists rfl rfl

theorem Moves.followUp (s : State) (n : Name) : Moves W s (s.followUp n) := by
  unfold State.followUp
  split
  · split
    · exact .removeRecord s n
    · exact (Moves.grantPass s none n).trans (.evalRecall _ n)
  · exact .refl

theorem Moves.leaveQueue (s : State) (n : Name) (c : ClientId) (i : SlotId) : Moves W s (s.leaveQueue n c i) :=
  .lists rfl rfl

theorem Moves.leaveHolders (s : State) (n : Name) (c : ClientId) (i : SlotId) : Moves W s (s.leaveHolders n c i) :=
  .lists rfl rfl

theorem Moves.endWait (s : State) (c : ClientId) (i : SlotId) (cause : EndCause) : Moves W s (s.endWait c i cause) := by
  unfold State.endWait
  split
  · exact ((Moves.leaveQueue s _ c i).trans (.endSlot _ c i rfl rfl)).trans (.post _ _ _ _)
  · exact .refl

theorem Moves.endHolding (s : State) (c : ClientId) (i : SlotId) (cause : EndCause) :
    Moves W s (s.endHolding c i cause) := by
  have hend (n : Name) (m : Mode) (g : Gen) :
      Moves W s (((s.leaveHolders n c i).setSlot c i (.ended n m (some g) cause)).post c i .urgent) :=
    ((Moves.leaveHolders s n c i).trans (.endSlot _ c i rfl rfl)).trans (.post _ _ _ _)
  unfold State.endHolding
  split
  · exact hend _ _ _
  · exact (hend _ _ _).trans (.holderEnd _ _)
  · exact (hend _ _ _).trans (.holderEnd _ _)
  all_goals exact .refl

theorem Moves.freeSlot (s : State) (c : ClientId) (i : SlotId) : Moves W s (s.freeSlot c i) := by
  have hfree (n : Name) : Moves W s ((s.leaveHolders n c i).setSlot c i .free) :=
    (Moves.leaveHolders s n c i).trans (.freeSlotWrite _ c i)
  unfold State.freeSlot
  split
  · exact .refl
  · exact ((Moves.leaveQueue s _ c i).trans (.freeSlotWrite _ c i)).trans (.followUp _ _)
  · exact (hfree _).trans (.followUp _ _)
  · exact ((hfree _).trans (.holderEnd _ _)).trans (.followUp _ _)
  · exact ((hfree _).trans (.holderEnd _ _)).trans (.followUp _ _)
  · exact .freeSlotWrite s c i

/-- Freeing some slots of a client, one after the other. -/
theorem Moves.freeSlots (s : State) (c : ClientId) (l : List SlotId) :
    Moves W s (l.foldl (fun u i => u.freeSlot c i) s) := .foldl (fun u i => .freeSlot u c i) l s

theorem Moves.renewSlot (s : State) (c : ClientId) (i : SlotId) : Moves W s (s.renewSlot c i) := by
  unfold State.renewSlot
  split
  · next hx => exact .keepSlot s c i rfl (by rw [hx]; rfl)
  · next hx => exact .keepSlot s c i rfl (by rw [hx]; rfl)
  · exact .refl

theorem Moves.waitDeadline (s : State) (c : ClientId) (i : SlotId) : Moves W s (s.waitDeadline c i) := by
  unfold State.waitDeadline
  split
  · split
    · exact (Moves.endWait s c i .timeout).trans (.followUp _ _)
    · exact .refl
  · exact .refl

theorem Moves.expire (s : State) (c : ClientId) (i : SlotId) : Moves W s (s.expire c i) := by
  unfold State.expire
  split
  · split
    · exact (Moves.endHolding s c i .expired).trans (.followUp _ _)
    · exact .refl
  · split
    · exact (Moves.endHolding s c i .expired).trans (.followUp _ _)
    · exact .refl
  · exact .refl

theorem Moves.revoke (s : State) (c : ClientId) (i : SlotId) : Moves W s (s.revoke c i) := by
  unfold State.revoke
  split
  · split
    · exact (Moves.endHolding s c i .revoked).trans (.followUp _ _)
    · exact .refl
  · exact .refl

theorem Moves.settleEnds (s : State) (g : ChannelId) : Moves W s (s.settleEnds g) := by
  unfold State.settleEnds
  split
  · unfold State.settleBound
    split
    · next h _ =>
      split
      · next hx =>
        have hconnect : Moves W s (s.connect g (s.client h.client).branch) := .lists rfl rfl
        refine ((hconnect.trans (.keepSlot _ h.client h.slot rfl ?_)).trans (.post _ _ _ _)).trans (.evalRecall _ _)
        rw [State.connect_slot, hx]
        rfl
      · exact .refl
    · exact .lists rfl rfl
  · exact .lists rfl rfl

theorem Moves.retireWaiters (s : State) (ws : List Waiter) : Moves W s (s.retireWaiters ws) :=
  .foldl (fun u w => .endWait u w.client w.slot .retired) ws s

theorem Moves.retireHolders (s : State) (hs : List Holder) : Moves W s (s.retireHolders hs) :=
  .foldl (fun u h => .endHolding u h.client h.slot .retired) hs s

theorem Moves.carryRetire (s : State) (c : ClientId) (n : Name) (mode : Byte) :
    Moves W s (carryRetire c n mode s).1 := by
  unfold Machine.carryRetire
  split
  · exact .refl
  · split
    · exact .refl
    · split
      · exact .refl
      · next r _ =>
        split
        · unfold State.retireGracefully
          split
          · exact .refl
          · split
            · exact .removeRecord s _
            · have hdrain : Moves W s ((s.retireWaiters r.waiters).updateRecord r.name
                  fun x => { x with waiters := [], state := .draining }) :=
                (Moves.retireWaiters s _).trans (.lists rfl rfl)
              exact hdrain.trans (.evalRecall _ _)
        · exact ((Moves.retireHolders s _).trans (.retireWaiters _ _)).trans (.removeRecord _ _)

theorem Moves.carryRelease (s : State) (c : ClientId) (slot : Byte) : Moves W s (carryRelease c slot s).1 := by
  have hleased (n : Name) (i : SlotId) :
      Moves W s (((((s.leaveHolders n c i).holderEnd n).setSlot c i .free).unpost c i).followUp n) :=
    ((((Moves.leaveHolders s n c i).trans (.holderEnd _ n)).trans (.freeSlotWrite _ c i)).trans
      (.unpost _ c i)).trans (.followUp _ n)
  unfold Machine.carryRelease
  split
  · exact .refl
  · split
    · exact hleased _ _
    · exact hleased _ _
    · exact ((Moves.leaveHolders s _ c _).trans (.freeSlotWrite _ c _)).trans (.followUp _ _)
    · exact (Moves.freeSlotWrite s c _).trans (.unpost _ c _)
    all_goals exact .refl

theorem Moves.carryCancel (s : State) (c : ClientId) (slot : Byte) : Moves W s (carryCancel c slot s).1 := by
  unfold Machine.carryCancel
  split
  · exact .refl
  · split
    · exact ((Moves.leaveQueue s _ c _).trans (.freeSlotWrite _ c _)).trans (.followUp _ _)
    · exact (Moves.freeSlotWrite s c _).trans (.unpost _ c _)
    all_goals exact .refl

theorem Moves.carryRenew (s : State) (c : ClientId) (slot : Byte) : Moves W s (carryRenew c slot s).1 := by
  unfold Machine.carryRenew
  split
  · exact .refl
  · split
    · exact .renewSlot s c _
    · exact .renewSlot s c _
    all_goals exact .refl

theorem Moves.carryRenewAll (s : State) (c : ClientId) : Moves W s (carryRenewAll c s).1 := by
  unfold Machine.carryRenewAll
  generalize allSlots = l
  exact .foldl (fun u i => .renewSlot u c i) l s

theorem Moves.carryFetch (s : State) (c : ClientId) : Moves W s (carryFetch c s).1 := by
  unfold Machine.carryFetch
  split
  · exact .refl
  · refine .trans (.single (.queue c ‹_› rfl rfl)) ?_
    dsimp only
    split
    · exact .freeSlotWrite _ c _
    · exact .refl

theorem Moves.carryDefine (s : State) (c : ClientId) (d : DefineParams) : Moves W s (carryDefine c d s).1 := by
  unfold Machine.carryDefine
  repeat' split
  all_goals exact .lists rfl rfl

theorem Moves.carryAmend (s : State) (c : ClientId) (a : AmendParams) : Moves W s (carryAmend c a s).1 := by
  have hwrite (rank : Fin 16) : Moves W s (s.updateRecord a.name (amendedRecord a rank)) := .lists rfl rfl
  unfold Machine.carryAmend
  split
  · exact .refl
  · split
    · exact .refl
    · next rank _ =>
      split
      · exact .refl
      · split
        · exact .refl
        · exact ((hwrite rank).trans (.grantPass _ none _)).trans (.evalRecall _ _)

theorem Moves.carrySeed (s : State) (c : ClientId) (value : Gen) : Moves W s (carrySeed c value s).1 := by
  unfold Machine.carrySeed
  split
  · exact .refl
  · split
    · exact .refl
    · next hzero =>
      split
      · exact .refl
      · exact .single (.lists rfl fun h => absurd h hzero)

theorem Moves.carrySlotRead (s : State) (c : ClientId) (slot : Byte) : Moves W s (carrySlotRead c slot s).1 := by
  unfold Machine.carrySlotRead
  split <;> exact .refl

theorem Moves.carryCheck (s : State) (n : Name) (g : Gen) : Moves W s (carryCheck n g s).1 := by
  unfold Machine.carryCheck
  repeat' split
  all_goals exact .refl

theorem Moves.carryQuery (s : State) (n : Name) : Moves W s (carryQuery n s).1 := by
  unfold Machine.carryQuery
  repeat' split
  all_goals exact .refl

/-- A request that is no OPEN, CLOSE or ACQUIRE moves the tables, and no slot becomes WAITING. -/
theorem Moves.carryNew (s : State) (p : Port) (c : ClientId) (body : Body) (hopen : bodyKind body ≠ .openClient)
    (hclose : bodyKind body ≠ .close) (hacquire : bodyKind body ≠ .acquire) : Moves W s (carryNew p c body s).1 := by
  cases body with
  | openClient => exact absurd rfl hopen
  | close => exact absurd rfl hclose
  | acquire => exact absurd rfl hacquire
  | release slot => exact .carryRelease s c slot
  | cancel slot => exact .carryCancel s c slot
  | renew slot => exact .carryRenew s c slot
  | renewAll => exact .carryRenewAll s c
  | fetch => exact .carryFetch s c
  | slotRead slot => exact .carrySlotRead s c slot
  | check n g => exact .carryCheck s n g
  | query n => exact .carryQuery s n
  | directory start => exact .refl
  | define d => exact .carryDefine s c d
  | amend a => exact .carryAmend s c a
  | retire n mode => exact .carryRetire s c n mode
  | seed value => exact .carrySeed s c value

end

end Sys2Proof.Machine
end

section
/-! PROOFS. Laws over the tables that every command keeps: what such a law must withstand, and two of them, the law of waits
(R35, R41) and the laws of generations (R115 to R117). -/

namespace Sys2Proof.Machine

open Sys2Proof.Claims Sys2Proof.Safety

/-! ### What some moves keep -/

/-- Of each client context all but the slots and the change queue stands. -/
def ContextsKept (s t : State) : Prop :=
  ∀ c, t.client c = { s.client c with slots := (t.client c).slots, queue := (t.client c).queue }

section

variable {W : ClientId → SlotId → Prop} {s t u : State}

theorem ContextsKept.refl (s : State) : ContextsKept s s := fun _ => rfl

theorem ContextsKept.trans (h : ContextsKept s t) (k : ContextsKept t u) : ContextsKept s u := fun c => by
  rw [k c, h c]

theorem ContextsKept.of_clients (h : t.clients = s.clients) : ContextsKept s t := fun c => by
  unfold State.client
  rw [h]

theorem ContextsKept.state (h : ContextsKept s t) (c : ClientId) : (t.client c).state = (s.client c).state := by
  rw [h c]

theorem ContextsKept.port (h : ContextsKept s t) (c : ClientId) : (t.client c).port = (s.client c).port := by rw [h c]

theorem ContextsKept.branch (h : ContextsKept s t) (c : ClientId) : (t.client c).branch = (s.client c).branch := by
  rw [h c]

theorem ContextsKept.priority (h : ContextsKept s t) (c : ClientId) : (t.client c).priority = (s.client c).priority := by
  rw [h c]

theorem ContextsKept.admin (h : ContextsKept s t) (c : ClientId) : (t.client c).admin = (s.client c).admin := by rw [h c]

theorem ContextsKept.cache (h : ContextsKept s t) (c : ClientId) : (t.client c).cache = (s.client c).cache := by rw [h c]

/-- Two states with the same client contexts have the same slots. -/
theorem State.slot_of_clients (h : t.clients = s.clients) (c : ClientId) (i : SlotId) : t.slot c i = s.slot c i := by
  unfold State.slot State.client
  rw [h]

theorem State.client_of_clients (h : t.clients = s.clients) (c : ClientId) : t.client c = s.client c := by
  unfold State.client
  rw [h]

theorem Move.contextsKept (h : Move W s t) : ContextsKept s t := by
  cases h with
  | lists hc => exact .of_clients hc
  | queue c q hc =>
    have hqueue : ContextsKept s (s.setQueue c q) := fun d => by
      rw [s.client_setQueue]
      split
      · next e => subst e; rfl
      · rfl
    exact hqueue.trans (.of_clients hc)
  | slot c i x _ _ hc => exact .trans (s.setSlot_recallKept c i x).client (.of_clients hc)
  | granted c i x n m _ hc => exact .trans (s.setSlot_recallKept c i x).client (.of_clients hc)

theorem Moves.contextsKept (h : Moves W s t) : ContextsKept s t := by
  induction h with
  | refl => exact .refl s
  | tail _ k ih => exact ih.trans k.contextsKept

/-- A holding slot is not WAITING. -/
theorem Slot.isWaiting_of_holding {x : Slot} {y : Name × Mode × Gen} (h : x.holding = some y) : x.isWaiting = false := by
  cases x with
  | waiting => cases h
  | _ => rfl

/-- Some moves make a slot WAITING only where they may. -/
theorem Move.waiting (h : Move W s t) (c : ClientId) (i : SlotId) (hw : (t.slot c i).isWaiting = true) :
    W c i ∨ (s.slot c i).isWaiting = true := by
  cases h with
  | lists hc => exact .inr (State.slot_of_clients hc c i ▸ hw)
  | queue d q hc =>
    rw [State.slot_of_clients hc, State.slot_setQueue] at hw
    exact .inr hw
  | slot d j x hx _ hc =>
    rw [State.slot_of_clients hc, State.slot_setSlot] at hw
    split at hw
    · next e => obtain ⟨rfl, rfl⟩ := e; exact hx hw
    · exact .inr hw
  | granted d j x n m hx hc =>
    rw [State.slot_of_clients hc, State.slot_setSlot] at hw
    split at hw
    · exact absurd ((Slot.isWaiting_of_holding hx).symm.trans hw) (by decide)
    · exact .inr hw

theorem Moves.waiting (h : Moves W s t) {c : ClientId} {i : SlotId} (hw : (t.slot c i).isWaiting = true) :
    W c i ∨ (s.slot c i).isWaiting = true := by
  induction h with
  | refl => exact .inr hw
  | tail _ k ih => exact (k.waiting c i hw).elim .inl ih

end

/-! ### A law of the tables -/

/-- What a law of the tables must withstand so that every command keeps it. `checked` says whether the law may lean on the law
of screened requests. -/
structure TableLaw (checked : Prop) (P : State → Prop) : Prop where
  /-- The law reads the directory, the clients, the channels and the generation counter alone. -/
  same : ∀ {s t : State}, t.records = s.records → t.clients = s.clients → t.channels = s.channels →
    t.generation = s.generation → P s → P t
  reset : P State.reset
  cache : ∀ {s : State} (c : ClientId) (k : Option Cache), P s → P (s.setClient c { s.client c with cache := k })
  /-- An OPEN for a CLOSED client (R23). -/
  opened : ∀ {s : State} (p : Port) (c : ClientId) (x : ClientState) (b : Branch) (pr : Priority) (adm : Bool),
    (checked → (s.client c).state = .closed) → P s →
      P (s.setClient c { s.client c with state := x, port := some p, branch := b, priority := pr, admin := adm })
  /-- A TAKEOVER (R25). -/
  takenOver : ∀ {s : State} (c : ClientId) (x : ClientState) (b : Branch) (pr : Priority) (adm : Bool), x ≠ .closed → P s →
    P ((s.freeAll c).setClient c { (s.freeAll c).client c with state := x, branch := b, priority := pr, admin := adm })
  /-- A CLOSE (R26). -/
  closed : ∀ {s : State} (c : ClientId), P s →
    P ((s.freeAll c).setClient c { (s.freeAll c).client c with state := .closed, branch := 0, priority := 0, admin := false })
  acquired : ∀ {s : State} (c : ClientId) (n : Name) (mode : Byte) (limit : Half),
    (checked → (s.client c).state ≠ .closed) → P s → P (carryAcquire c n mode limit s).1
  /-- Every other request classed new. -/
  other : ∀ {s : State} (p : Port) (c : ClientId) (body : Body), bodyKind body ≠ .openClient → bodyKind body ≠ .close →
    bodyKind body ≠ .acquire → P s → P (carryNew p c body s).1
  fault : ∀ {s : State} (p : Port) (c : ClientId), P s → P (s.faultClient p c)
  reopened : ∀ {s : State} (p : Port) (c : ClientId), P s → P (s.reopen p c)
  waitDeadline : ∀ {s : State} (c : ClientId) (i : SlotId), P s → P (s.waitDeadline c i)
  expired : ∀ {s : State} (c : ClientId) (i : SlotId), P s → P (s.expire c i)
  revoked : ∀ {s : State} (c : ClientId) (i : SlotId), P s → P (s.revoke c i)
  settling : ∀ {s : State} (g : ChannelId) (e d : Nat), (s.channel g).state = .settling e → P s →
    P (s.setChannel g { s.channel g with state := .settling d })
  settled : ∀ {s : State} (g : ChannelId) (e : Nat), (s.channel g).state = .settling e → P s → P (s.settleEnds g)
  ticked : ∀ {s : State} (now : Clock), P s → P (s.clockAt now)

/-- An OPEN that is passed on as one for a CLOSED client finds its client CLOSED (R131). -/
theorem screen_plainOpen_closed {x : Client} {p : Port} {r : Request} (h : screen x p r = .passed .plainOpen) :
    x.state = .closed ∧ bodyKind r.body = .openClient := by
  have hsequence (k : Option Cache) : screenSequence k r ≠ .passed .plainOpen := by
    unfold screenSequence
    repeat' split
    all_goals nofun
  unfold screen at h
  split at h
  · next hclosed =>
    split at h
    · next hkind => exact ⟨hclosed, hkind⟩
    · unfold screenClosedClose at h
      repeat' split at h
      all_goals cases h
    · cases h
  · split at h
    · split at h <;> cases h
    · split at h
      · unfold screenReopen at h
        split at h
        · exact absurd h (hsequence _)
        · split at h
          · exact absurd h (hsequence _)
          · cases h
      · exact absurd h (hsequence _)

section

variable {checked : Prop} {P : State → Prop} {s t : State}

/-- A request carried out keeps the law. -/
theorem TableLaw.carryNew (L : TableLaw checked P) (p : Port) (c : ClientId) (body : Body)
    (hc : checked → (s.client c).state ≠ .closed) (h : P s) : P (carryNew p c body s).1 := by
  have hopened : s.openState p ≠ .closed := by
    unfold State.openState
    split <;> decide
  cases body with
  | openClient branch priority flags =>
    show P (carryTakeover p c branch priority flags s).1
    unfold carryTakeover
    split
    · exact h
    · exact L.takenOver c _ _ _ _ hopened h
  | close => exact L.closed c h
  | acquire n mode limit => exact L.acquired c n mode limit hc h
  | _ => exact L.other p c _ nofun nofun nofun h

theorem TableLaw.carryScreened (L : TableLaw checked P) (k : Passage) (p : Port) (r : Request)
    (hk : checked → screen (s.client r.header.client) p r = .passed k) (h : P s) : P (carryScreened k p r s).1 := by
  unfold Machine.carryScreened
  cases k with
  | plainOpen =>
    have hcarried : P (carryPlainOpen p r.header.client r.body s).1 := by
      unfold carryPlainOpen carryOpen
      split
      · split
        · exact h
        · exact L.opened p _ _ _ _ _ (fun hc => (screen_plainOpen_closed (hk hc)).1) h
      · exact h
    dsimp only
    split
    · exact L.cache _ _ hcarried
    · exact hcarried
  | fresh =>
    exact L.cache _ _ (L.carryNew p _ _ (fun hc => (screen_fresh_bound p _ r (hk hc)).1) h)

theorem TableLaw.effect (L : TableLaw checked P) {own : Option Port} (he : Effect checked own s t) (h : P s) : P t := by
  cases he with
  | port q x => exact L.same (s := s) rfl rfl rfl rfl h
  | answered q r k a => exact L.same (s := s) rfl rfl rfl rfl h
  | carried k q r hk => exact L.carryScreened k q r hk h
  | fault q c => exact L.fault q c h
  | reopened q c => exact L.reopened q c h
  | waitDeadline c i => exact L.waitDeadline c i h
  | expired c i => exact L.expired c i h
  | revoked c i => exact L.revoked c i h
  | settling g e d hg => exact L.settling g e d hg h
  | settled g e hg => exact L.settled g e hg h
  | ticked now => exact L.ticked now h
  | resetEnded => exact L.same (s := s) rfl rfl rfl rfl h

theorem TableLaw.effects (L : TableLaw checked P) {own : Option Port} (he : Effects checked own s t) (h : P s) : P t := by
  induction he with
  | refl => exact h
  | tail _ k ih => exact L.effect k ih

/-- A law of the tables is kept by every step. -/
theorem TableLaw.step (L : TableLaw checked P) (hs : checked → ScreenedLawful s) (h : P s)
    (he : step s = .next t) : P t := by
  obtain ⟨hfront, hempty⟩ := stepRunsTheFrontCommand
  cases hq : s.pending with
  | nil =>
    rw [hempty s hq] at he
    cases he
    exact h
  | cons i rest =>
    rw [hfront s i rest hq] at he
    have hrest : P { s with pending := rest } := L.same (s := s) rfl rfl rfl rfl h
    by_cases hstart : ∃ q, i = .frameStart q
    · obtain ⟨q, rfl⟩ := hstart
      obtain rfl | ⟨-, f, rfl⟩ := frameStart_cases he
      · exact hrest
      · exact L.same (s := s) rfl rfl rfl rfl h
    · by_cases hreset : i = .chipReset
      · subst hreset
        cases he
        exact L.same (s := State.reset) rfl rfl rfl rfl L.reset
      · exact L.effects (effects_of_command (s := { s with pending := rest }) hs (fun q e => hstart ⟨q, e⟩) hreset he) hrest

end

/-! ### The slots that operations on a client leave -/

section

variable (s : State) (c : ClientId)

/-- A client context rewritten leaves every slot but its own. -/
theorem State.slot_setClient (x : Client) (d : ClientId) (j : SlotId) :
    (s.setClient c x).slot d j = if c = d then x.slots[j] else s.slot d j := by
  unfold State.slot
  rw [State.client_setClient]
  split <;> rfl

/-- A client context rewritten with its slots leaves every slot. -/
theorem State.slot_setClient_of_slots {x : Client} (hx : x.slots = (s.client c).slots) (d : ClientId) (j : SlotId) :
    (s.setClient c x).slot d j = s.slot d j := by
  rw [s.slot_setClient]
  split
  · next e => subst e; rw [hx]; rfl
  · rfl

/-- Some slots of a client freed one after the other, each with its follow-up (R27). -/
@[irreducible] def State.freeSlots (l : List SlotId) : State := l.foldl (fun u i => u.freeSlot c i) s

theorem State.freeAll_eq : s.freeAll c =
    (s.freeSlots c allSlots).setClient c
      { (s.freeSlots c allSlots).client c with slots := Vector.replicate 8 .free, queue := [] } := by
  unfold State.freeAll State.freeSlots
  rfl

theorem Moves.freeSlots_all {W : ClientId → SlotId → Prop} : Moves W s (s.freeSlots c allSlots) := by
  unfold State.freeSlots
  exact .freeSlots s c allSlots

/-- After every slot of a client is freed its context has no slot in use and an empty change queue (R25, R26). -/
theorem State.client_freeAll : (s.freeAll c).client c =
    { (s.freeSlots c allSlots).client c with slots := Vector.replicate 8 .free, queue := [] } := by
  rw [s.freeAll_eq, State.client_setClient, if_pos rfl]

theorem State.client_freeAll_of_ne {d : ClientId} (h : c ≠ d) :
    (s.freeAll c).client d = (s.freeSlots c allSlots).client d := by
  rw [s.freeAll_eq, State.client_setClient, if_neg h]

theorem State.slot_freeAll (d : ClientId) (j : SlotId) :
    (s.freeAll c).slot d j = if c = d then .free else (s.freeSlots c allSlots).slot d j := by
  unfold State.slot
  split
  · next e => subst e; rw [s.client_freeAll]; simp
  · next e => rw [s.client_freeAll_of_ne c e]

theorem State.freeAll_generation : (s.freeAll c).generation = (s.freeSlots c allSlots).generation := by
  rw [s.freeAll_eq]
  rfl

end

/-! ### The laws of generations -/

/-- The fifth law, and the law of the counter (R115 to R117). -/
def GenerationLaws (s : State) : Prop := GenerationsDistinct s ∧ CounterLawful s

/-- A slot holds exactly where it carries a generation. -/
theorem Slot.holdingGen_eq_map (x : Slot) : x.holdingGen = x.holding.map (·.2.2) := by
  cases x <;> rfl

section

variable {s t : State}

/-- The laws of generations withstand slots that hold less. -/
theorem GenerationLaws.mono (hh : ∀ c i y, (t.slot c i).holding = some y → (s.slot c i).holding = some y)
    (hg : t.generation = 0#32 → s.generation = 0#32) (h : GenerationLaws s) : GenerationLaws t := by
  obtain ⟨hdistinct, hcounter⟩ := h
  have hgen {c : ClientId} {i : SlotId} {g : Gen} (hx : (t.slot c i).holdingGen = some g) :
      (s.slot c i).holdingGen = some g := by
    rw [Slot.holdingGen_eq_map] at hx ⊢
    obtain ⟨y, hy, rfl⟩ := Option.map_eq_some_iff.mp hx
    rw [hh c i y hy]
    rfl
  refine ⟨fun c i x hx => ?_, fun hzero c i => ?_⟩
  · obtain ⟨hne, hone⟩ := hdistinct c i x (hh c i x hx)
    exact ⟨hne, fun d j hd => hone d j (hgen hd)⟩
  · refine Option.eq_none_iff_forall_ne_some.mpr fun g hx => ?_
    cases (hcounter (hg hzero) c i).symm.trans (hgen hx)

/-- The laws read the slots and the counter alone. -/
theorem GenerationLaws.congr (hslot : ∀ c i, t.slot c i = s.slot c i) (hg : t.generation = s.generation)
    (h : GenerationLaws s) : GenerationLaws t :=
  h.mono (fun c i _ hy => hslot c i ▸ hy) fun hz => hg ▸ hz

/-- A grant of the generation drawn keeps the laws (R116). -/
theorem GenerationLaws.granted {c : ClientId} {i : SlotId} {x : Slot} {n : Name} {m : Mode}
    (hx : x.holding = some (n, m, s.drawn)) (hslot : ∀ d j, t.slot d j = if c = d ∧ i = j then x else s.slot d j)
    (hg : t.generation = s.drawn) (h : GenerationLaws s) : GenerationLaws t := by
  obtain ⟨hdistinct, -⟩ := h
  have hgen : x.holdingGen = some s.drawn := Slot.holdingGen_of_holding hx
  refine ⟨fun d j y hy => ?_, fun hz => absurd (hg.symm.trans hz) s.drawn_ne_zero⟩
  rw [hslot] at hy
  split at hy
  · next e =>
    obtain ⟨rfl, rfl⟩ := e
    cases hx.symm.trans hy
    refine ⟨s.drawn_ne_zero, fun d' j' hd => ?_⟩
    rw [hslot] at hd
    split at hd
    · next e => exact e
    · exact absurd hd (s.drawn_not_held d' j')
  · obtain ⟨hne, hone⟩ := hdistinct d j y hy
    refine ⟨hne, fun d' j' hd => ?_⟩
    rw [hslot] at hd
    split at hd
    · refine absurd ?_ (s.drawn_not_held d j)
      rw [Option.some.inj (hgen.symm.trans hd)]
      exact Slot.holdingGen_of_holding hy
    · exact hone d' j' hd

theorem Move.generationLaws {W : ClientId → SlotId → Prop} (k : Move W s t) (h : GenerationLaws s) :
    GenerationLaws t := by
  cases k with
  | lists hc hg => exact h.mono (fun c i y hy => State.slot_of_clients hc c i ▸ hy) hg
  | queue c q hc hg =>
    exact h.congr (fun d j => (State.slot_of_clients hc d j).trans (s.slot_setQueue c d q j)) hg
  | slot c i x _ hh hc hg =>
    refine h.mono (fun d j _ hy => ?_) fun hz => hg ▸ hz
    rw [State.slot_of_clients hc, State.slot_setSlot] at hy
    split at hy
    · next e => obtain ⟨rfl, rfl⟩ := e; exact hh _ hy
    · exact hy
  | granted c i x n m hx hc hg =>
    exact h.granted hx (fun d j => (State.slot_of_clients hc d j).trans (s.slot_setSlot c d i j x)) hg

theorem Moves.generationLaws {W : ClientId → SlotId → Prop} (k : Moves W s t) (h : GenerationLaws s) :
    GenerationLaws t := by
  induction k with
  | refl => exact h
  | tail _ he ih => exact he.generationLaws ih

/-- A client context rewritten with its slots keeps the laws. -/
theorem GenerationLaws.setClient {c : ClientId} {x : Client} (hx : x.slots = (s.client c).slots) (h : GenerationLaws s) :
    GenerationLaws (s.setClient c x) := h.congr (s.slot_setClient_of_slots c hx) rfl

theorem GenerationLaws.freeAll (c : ClientId) (h : GenerationLaws s) : GenerationLaws (s.freeAll c) := by
  refine ((Moves.freeSlots_all (W := NoWait) s c).generationLaws h).mono (fun d j y hy => ?_)
    fun hz => s.freeAll_generation c ▸ hz
  rw [s.slot_freeAll] at hy
  split at hy
  · cases hy
  · exact hy

end

/-- The moves of an ACQUIRE: the slot allocated alone may become WAITING (R44, R48). -/
theorem Moves.answerAcquire {W : ClientId → SlotId → Prop} (s : State) (c : ClientId) (i : SlotId) (n : Name) (m : Mode)
    (limit : Half) (k : Nat) (hW : W c i) : Moves W s (s.answerAcquire c i n m limit k).1 := by
  unfold State.answerAcquire
  split
  · exact .evalRecall s n
  · exact .evalRecall s n
  · split
    · exact ((Moves.leaveQueue s n c i).trans (.freeSlotWrite _ c i)).trans (.evalRecall _ n)
    · split
      · exact .evalRecall s n
      · exact .trans (.single (.slot c i _ (fun _ => .inl hW) (fun _ h => by cases h) rfl rfl)) (.evalRecall _ n)

/-- What an ACQUIRE comes to: a refusal that changes nothing, or the moves of its one slot, in a client without a wait. -/
theorem carryAcquire_cases (s : State) (c : ClientId) (n : Name) (mode : Byte) (limit : Half) :
    (∃ st, carryAcquire c n mode limit s = refusal s st) ∨
    ∃ m r i, modeOf mode = some m ∧ n ≠ 0#16 ∧ s.find n = some r ∧ s.admission c r m = .ok i ∧
      carryAcquire c n mode limit s = ((s.enqueue c i n m).grantPass (some c) n).answerAcquire c i n m limit
        ((s.enqueue c i n m).position n c i) := by
  unfold carryAcquire
  split
  · exact .inl ⟨_, rfl⟩
  · split
    · exact .inl ⟨_, rfl⟩
    · split
      · exact .inl ⟨_, rfl⟩
      · split
        · exact .inl ⟨_, rfl⟩
        · exact .inr ⟨_, _, _, ‹_›, ‹_›, ‹_›, ‹_›, rfl⟩

/-- The admitted request's slot becomes WAITING. -/
theorem Moves.enqueue {W : ClientId → SlotId → Prop} (s : State) (c : ClientId) (i : SlotId) (n : Name) (m : Mode)
    (hW : W c i) : Moves W s (s.enqueue c i n m) :=
  .single (.slot c i (.waiting n m none) (fun _ => .inl hW) (fun _ h => by cases h) rfl rfl)

theorem Moves.admitted {W : ClientId → SlotId → Prop} (s : State) (c : ClientId) (i : SlotId) (n : Name) (m : Mode)
    (limit : Half) (k : Nat) (hW : W c i) :
    Moves W s (((s.enqueue c i n m).grantPass (some c) n).answerAcquire c i n m limit k).1 :=
  ((Moves.enqueue s c i n m hW).trans (.grantPass _ _ n)).trans (.answerAcquire _ c i n m limit k hW)

theorem Moves.carryAcquire (s : State) (c : ClientId) (n : Name) (mode : Byte) (limit : Half) :
    Moves (fun _ _ => True) s (carryAcquire c n mode limit s).1 := by
  obtain ⟨st, e⟩ | ⟨m, r, i, -, -, -, -, e⟩ := carryAcquire_cases s c n mode limit
  · rw [e]; exact .refl
  · rw [e]; exact .admitted s c i n m limit _ trivial

/-- The moves of a fault taken for one client, before it becomes SUSPECT (R35). -/
theorem State.faultClient_cases (s : State) (p : Port) (c : ClientId) :
    ¬ ((s.client c).state = .opened ∧ (s.client c).port = some p) ∧ s.faultClient p c = s ∨
    ∃ t, (s.client c).state = .opened ∧ (s.client c).port = some p ∧
      s.faultClient p c = t.setClient c { t.client c with state := .suspect } ∧
      ((∀ i, (s.slot c i).isWaiting = false) ∧ t = s ∨
        ∃ i n m w, s.slot c i = .waiting n m w ∧ t = (s.endWait c i .link).followUp n) := by
  unfold State.faultClient
  split
  · next h =>
    refine .inr ⟨_, h.1, h.2, rfl, ?_⟩
    cases hw : s.waitingSlot c with
    | none =>
      refine .inl ⟨fun i => ?_, rfl⟩
      have hnone := List.find?_eq_none.mp hw i (by rw [allSlots_eq_finRange]; exact List.mem_finRange i)
      simpa using hnone
    | some i =>
      have hi : (s.slot c i).isWaiting = true := by simpa using List.find?_some hw
      cases hslot : s.slot c i with
      | waiting n m w => exact .inr ⟨i, n, m, w, hslot, by simp only [hslot]⟩
      | _ => rw [hslot] at hi; cases hi
  · next h => exact .inl ⟨h, rfl⟩

/-- A SUSPECT client of a port returns to OPEN, or nothing happens (R38). -/
theorem State.reopen_cases (s : State) (p : Port) (c : ClientId) :
    s.reopen p c = s ∨ s.suspectOn p c = true ∧ s.reopen p c = s.setClient c { s.client c with state := .opened } := by
  unfold State.reopen
  split
  · next h => exact .inr ⟨h, rfl⟩
  · exact .inl rfl

/-- A reading of a slot that no deadline enters stands when the clock advances. -/
theorem holding_slotAt (now : Clock) (x : Slot) : (slotAt now x).holding = x.holding := by
  cases x with
  | waiting n m w => cases w <;> rfl
  | _ => rfl

theorem isWaiting_slotAt (now : Clock) (x : Slot) : (slotAt now x).isWaiting = x.isWaiting := by
  cases x with
  | waiting n m w => cases w <;> rfl
  | _ => rfl

/-- After a chip reset every slot is FREE (R29). -/
theorem slot_reset (c : ClientId) (i : SlotId) : State.reset.slot c i = .free := by
  have hclient : State.reset.client c = resetClient := Vector.getElem_replicate (n := 16) c.isLt
  unfold State.slot
  rw [hclient]
  exact Vector.getElem_replicate (n := 8) i.isLt

/-- The laws of generations withstand every command. -/
theorem generationLaws_tableLaw : TableLaw False GenerationLaws where
  same _ hc _ hg h := h.congr (fun c i => State.slot_of_clients hc c i) hg
  reset := by
    refine ⟨fun c i x hx => ?_, fun _ c i => by rw [slot_reset]; rfl⟩
    rw [slot_reset] at hx
    cases hx
  cache _ _ h := h.setClient rfl
  opened _ _ _ _ _ _ _ h := h.setClient rfl
  takenOver {s} c _ _ _ _ _ h := by
    have hfreed := h.freeAll c
    generalize s.freeAll c = t at hfreed ⊢
    exact hfreed.setClient rfl
  closed {s} c h := by
    have hfreed := h.freeAll c
    generalize s.freeAll c = t at hfreed ⊢
    exact hfreed.setClient rfl
  acquired c n mode limit _ h := (Moves.carryAcquire _ c n mode limit).generationLaws h
  other p c body ho hc ha h := (Moves.carryNew (W := NoWait) _ p c body ho hc ha).generationLaws h
  fault {s} p c h := by
    obtain ⟨-, e⟩ | ⟨t, -, -, e, ⟨-, rfl⟩ | ⟨i, n, m, w, -, rfl⟩⟩ := s.faultClient_cases p c
    · rw [e]; exact h
    · rw [e]; exact h.setClient rfl
    · rw [e]
      exact (((Moves.endWait (W := NoWait) s c i .link).trans (.followUp _ n)).generationLaws h).setClient rfl
  reopened {s} p c h := by
    obtain e | ⟨-, e⟩ := s.reopen_cases p c
    · rw [e]; exact h
    · rw [e]; exact h.setClient rfl
  waitDeadline c i h := (Moves.waitDeadline (W := NoWait) _ c i).generationLaws h
  expired c i h := (Moves.expire (W := NoWait) _ c i).generationLaws h
  revoked c i h := (Moves.revoke (W := NoWait) _ c i).generationLaws h
  settling _ _ _ _ h := h.congr (fun _ _ => rfl) rfl
  settled g _ _ h := (Moves.settleEnds (W := NoWait) _ g).generationLaws h
  ticked {s} now h := h.mono (s := s) (t := s.clockAt now) (fun c i _ hy => by rwa [s.slot_clockAt, holding_slotAt] at hy) id

/-- Settles O57: a grant draws a generation that no slot carries, and no other effect lets a slot hold what it did not. -/
theorem stepKeepsGenerationLaws : Obligations.StepKeepsGenerationLaws := fun _ _ hdistinct hcounter he =>
  generationLaws_tableLaw.step False.elim ⟨hdistinct, hcounter⟩ he

/-! ### The law of waits -/

section

variable {s t : State}

/-- The law of waits withstands moves that make no slot WAITING, in contexts whose states stand. -/
theorem waitsLawful_of_fewer (hw : ∀ c i, (t.slot c i).isWaiting = true → (s.slot c i).isWaiting = true)
    (hstate : ∀ c, (t.client c).state ≠ .opened → (s.client c).state ≠ .opened ∨ ∀ i, (t.slot c i).isWaiting = false)
    (h : WaitsLawful s) : WaitsLawful t := by
  intro c
  obtain ⟨hone, hnone⟩ := h c
  refine ⟨fun i j hi hj => hone i j (hw c i hi) (hw c j hj), fun ht i => ?_⟩
  obtain hs | hall := hstate c ht
  · exact Bool.eq_false_iff.mpr fun hi => Bool.eq_false_iff.mp (hnone hs i) (hw c i hi)
  · exact hall i

theorem Moves.waitsLawful (k : Moves NoWait s t) (h : WaitsLawful s) : WaitsLawful t :=
  waitsLawful_of_fewer (fun _ _ hw => (k.waiting hw).resolve_left id) (fun c hc => .inl (k.contextsKept.state c ▸ hc)) h

/-- A client context rewritten with its slots keeps the law, where the client is OPEN afterwards or was not OPEN before, or has
no wait. -/
theorem waitsLawful_setClient {c : ClientId} {x : Client} (hx : x.slots = (s.client c).slots)
    (hstate : x.state ≠ .opened → (s.client c).state ≠ .opened ∨ ∀ i, (s.slot c i).isWaiting = false)
    (h : WaitsLawful s) : WaitsLawful (s.setClient c x) := by
  have hslot := s.slot_setClient_of_slots c hx
  refine waitsLawful_of_fewer (fun d j hw => hslot d j ▸ hw) (fun d hd => ?_) h
  rw [State.client_setClient] at hd
  split at hd
  · next e => subst e; simpa only [hslot] using hstate hd
  · exact .inl hd

theorem isWaiting_freeAll (s : State) (c : ClientId) (i : SlotId) : ((s.freeAll c).slot c i).isWaiting = false := by
  rw [s.slot_freeAll, if_pos rfl]
  rfl

theorem waitsLawful_freeAll (c : ClientId) (h : WaitsLawful s) : WaitsLawful (s.freeAll c) := by
  have k := Moves.freeSlots_all (W := NoWait) s c
  refine waitsLawful_of_fewer (s := s.freeSlots c allSlots) (fun d j hw => ?_) (fun d hd => ?_) (k.waitsLawful h)
  · rw [s.slot_freeAll] at hw
    split at hw
    · cases hw
    · exact hw
  · by_cases e : c = d
    · subst e; exact .inr (isWaiting_freeAll s c)
    · rw [s.client_freeAll_of_ne c e] at hd; exact .inl hd

/-- A client without a wait has no WAITING slot (R40, check 3). -/
theorem isWaiting_of_hasWait {c : ClientId} (h : s.hasWait c = false) (i : SlotId) : (s.slot c i).isWaiting = false := by
  unfold State.hasWait at h
  rw [allSlots_eq_finRange, List.any_eq_false] at h
  simpa using h i (List.mem_finRange i)

/-- An admitted request finds its resource ACTIVE, its client without a wait, without a live slot of the resource, and with a
FREE slot (R40, R31). -/
theorem State.admission_ok {c : ClientId} {r : Record} {m : Mode} {i : SlotId} (h : s.admission c r m = .ok i) :
    r.state ≠ .draining ∧ ¬ (m = .shared ∧ r.shareLimit = 1) ∧ s.hasWait c = false ∧ s.hasLive c r.name = false ∧
      s.rankBlocked c r.rank = false ∧ s.firstFree c = some i := by
  unfold State.admission at h
  repeat' split at h
  all_goals cases h
  refine ⟨‹_›, ‹_›, ?_, ?_, ?_, ‹_›⟩ <;> exact Bool.eq_false_iff.mpr ‹_›

/-- Recall evaluation makes no slot WAITING. -/
theorem isWaiting_evalRecall (s : State) (n : Name) {c : ClientId} {i : SlotId} (h : (s.slot c i).isWaiting = false) :
    ((s.evalRecall n).slot c i).isWaiting = false :=
  Bool.eq_false_iff.mpr fun hw =>
    Bool.eq_false_iff.mp h (((Moves.evalRecall (W := NoWait) s n).waiting hw).resolve_left id)

/-- R36: the ACQUIRE of a SUSPECT client leaves its slot not WAITING. -/
theorem isWaiting_answerAcquire_of_suspect (s : State) (c : ClientId) (i : SlotId) (n : Name) (m : Mode) (limit : Half)
    (k : Nat) (hs : (s.client c).state = .suspect) :
    ((s.answerAcquire c i n m limit k).1.slot c i).isWaiting = false := by
  unfold State.answerAcquire
  split
  · next hx => exact isWaiting_evalRecall s n (by rw [hx]; rfl)
  · next hx => exact isWaiting_evalRecall s n (by rw [hx]; rfl)
  · rw [if_pos (.inr hs)]
    exact isWaiting_evalRecall _ n (by simp [Slot.isWaiting])

/-- An admitted ACQUIRE keeps the law of waits: its slot is the client's one wait. -/
theorem waitsLawful_admitted {c : ClientId} {i : SlotId} {n : Name} {m : Mode} {limit : Half} {k : Nat}
    (hw : s.hasWait c = false) (hc : (s.client c).state ≠ .closed) (h : WaitsLawful s) :
    WaitsLawful (((s.enqueue c i n m).grantPass (some c) n).answerAcquire c i n m limit k).1 := by
  have hmoves := Moves.admitted (W := fun d j => d = c ∧ j = i) s c i n m limit k ⟨rfl, rfl⟩
  have hpass : ContextsKept s ((s.enqueue c i n m).grantPass (some c) n) :=
    ((Moves.enqueue (W := fun _ _ => True) s c i n m trivial).trans (.grantPass _ _ n)).contextsKept
  intro d
  obtain ⟨hone, hnone⟩ := h d
  by_cases hd : d = c
  · subst hd
    have hown {j : SlotId} (hj : (((((s.enqueue d i n m).grantPass (some d) n).answerAcquire d i n m limit k).1).slot d j).isWaiting
        = true) : j = i :=
      (hmoves.waiting hj).elim And.right fun hs => absurd hs (by rw [isWaiting_of_hasWait hw j]; decide)
    refine ⟨fun j j' hj hj' => (hown hj).trans (hown hj').symm, fun hst j => Bool.eq_false_iff.mpr fun hj => ?_⟩
    obtain rfl := hown hj
    have hsus : (s.client d).state = .suspect := by
      rw [hmoves.contextsKept.state] at hst
      cases hx : (s.client d).state with
      | closed => exact absurd hx hc
      | opened => exact absurd hx hst
      | suspect => rfl
    have hfalse := isWaiting_answerAcquire_of_suspect ((s.enqueue d j n m).grantPass (some d) n) d j n m limit k
      ((hpass.state d).trans hsus)
    exact absurd (hfalse.symm.trans hj) (by decide)
  · have hold {j : SlotId} (hj : (((((s.enqueue c i n m).grantPass (some c) n).answerAcquire c i n m limit k).1).slot d j).isWaiting
        = true) : (s.slot d j).isWaiting = true := (hmoves.waiting hj).resolve_left fun e => hd e.1
    refine ⟨fun j j' hj hj' => hone j j' (hold hj) (hold hj'), fun hst j => Bool.eq_false_iff.mpr fun hj => ?_⟩
    exact Bool.eq_false_iff.mp (hnone (hmoves.contextsKept.state d ▸ hst) j) (hold hj)

/-- The slot whose wait ends is not WAITING (R35). -/
theorem isWaiting_endWait_self (s : State) (c : ClientId) (i : SlotId) (cause : EndCause) :
    ((s.endWait c i cause).slot c i).isWaiting = false := by
  unfold State.endWait
  split
  · simp [Slot.isWaiting]
  · next hx =>
    cases hslot : s.slot c i with
    | waiting n m w => exact absurd hslot (hx n m w)
    | _ => rfl

/-- A fault taken for a client keeps the law: its one wait has ended when it becomes SUSPECT (R35). -/
theorem waitsLawful_faultClient (p : Port) (c : ClientId) (h : WaitsLawful s) : WaitsLawful (s.faultClient p c) := by
  obtain ⟨-, e⟩ | ⟨t, -, -, e, ⟨hnone, rfl⟩ | ⟨i, n, m, w, hi, rfl⟩⟩ := s.faultClient_cases p c
  · rw [e]; exact h
  · rw [e]; exact waitsLawful_setClient rfl (fun _ => .inr hnone) h
  · rw [e]
    have hend := Moves.endWait (W := NoWait) s c i .link
    have hfollow := Moves.followUp (W := NoWait) (s.endWait c i .link) n
    refine waitsLawful_setClient rfl (fun _ => .inr fun j => Bool.eq_false_iff.mpr fun hj => ?_)
      ((hend.trans hfollow).waitsLawful h)
    have hj' := (hfollow.waiting hj).resolve_left id
    obtain ⟨hone, -⟩ := h c
    obtain rfl := hone i j (by rw [hi]; rfl) ((hend.waiting hj').resolve_left id)
    exact absurd ((isWaiting_endWait_self s c i .link).symm.trans hj') (by decide)

end

/-- The law of waits withstands every command. -/
theorem waitsLawful_tableLaw : TableLaw True WaitsLawful where
  same _ hc _ _ h := waitsLawful_of_fewer (fun c i hw => State.slot_of_clients hc c i ▸ hw)
    (fun c hs => .inl (State.client_of_clients hc c ▸ hs)) h
  reset c := by
    have hnone (i : SlotId) : (State.reset.slot c i).isWaiting = false := by rw [slot_reset]; rfl
    exact ⟨fun i _ h => absurd ((hnone i).symm.trans h) (by decide), fun _ => hnone⟩
  cache _ _ h := waitsLawful_setClient rfl .inl h
  opened p c x b pr adm hc h := waitsLawful_setClient rfl (fun _ => .inl (by rw [hc trivial]; decide)) h
  takenOver {s} c x b pr adm _ h := by
    have hfreed := waitsLawful_freeAll c h
    have hnone := isWaiting_freeAll s c
    generalize s.freeAll c = t at hfreed hnone ⊢
    exact waitsLawful_setClient rfl (fun _ => .inr hnone) hfreed
  closed {s} c h := by
    have hfreed := waitsLawful_freeAll c h
    have hnone := isWaiting_freeAll s c
    generalize s.freeAll c = t at hfreed hnone ⊢
    exact waitsLawful_setClient rfl (fun _ => .inr hnone) hfreed
  acquired {s} c n mode limit hc h := by
    obtain ⟨st, e⟩ | ⟨m, r, i, -, -, -, ha, e⟩ := carryAcquire_cases s c n mode limit
    · rw [e]; exact h
    · rw [e]
      obtain ⟨-, -, hw, -⟩ := State.admission_ok ha
      exact waitsLawful_admitted hw (hc trivial) h
  other p c body ho hc ha h := (Moves.carryNew _ p c body ho hc ha).waitsLawful h
  fault p c h := waitsLawful_faultClient p c h
  reopened {s} p c h := by
    obtain e | ⟨-, e⟩ := s.reopen_cases p c
    · rw [e]; exact h
    · rw [e]; exact waitsLawful_setClient rfl (fun hne => absurd rfl hne) h
  waitDeadline c i h := (Moves.waitDeadline _ c i).waitsLawful h
  expired c i h := (Moves.expire _ c i).waitsLawful h
  revoked c i h := (Moves.revoke _ c i).waitsLawful h
  settling _ _ _ _ h := waitsLawful_of_fewer (fun _ _ hw => hw) (fun _ hs => .inl hs) h
  settled g _ _ h := (Moves.settleEnds _ g).waitsLawful h
  ticked {s} now h := waitsLawful_of_fewer (t := s.clockAt now) (fun c i hw => by rwa [s.slot_clockAt, isWaiting_slotAt] at hw)
    (fun c hs => .inl (by rwa [s.client_clockAt] at hs)) h

/-- Settles O29: an ACQUIRE alone makes a slot WAITING, and a client is OPEN or has no wait. -/
theorem stepKeepsOneWaitPerClient : Obligations.StepKeepsOneWaitPerClient := fun _ _ hw hs he =>
  waitsLawful_tableLaw.step (fun _ => hs) hw he

end Sys2Proof.Machine
end

section
/-! PROOFS. The laws that tie the ports to their clients and to the requests screened there (R35, R126, R135, R147, R148). -/

namespace Sys2Proof.Machine

open Sys2Proof.Claims Sys2Proof.Safety

/-! ### What a screening reads of a client -/

/-- Two client contexts are open or CLOSED alike, on one port, with one cache. -/
structure SameBinding (x y : Client) : Prop where
  closed : y.state = .closed ↔ x.state = .closed
  port : y.port = x.port
  cache : y.cache = x.cache

/-- A screening reads no more of its client (R126). -/
theorem SameBinding.screen_eq {x y : Client} (h : SameBinding x y) (p : Port) (r : Request) : screen y p r = screen x p r := by
  obtain ⟨hclosed, hport, hcache⟩ := h
  unfold screen screenClosedClose
  simp only [hclosed, hport, hcache]

theorem SameBinding.rfl' (x : Client) : SameBinding x x := ⟨.rfl, rfl, rfl⟩

/-! ### The laws, port by port and client by client -/

/-- The law of a port unit (R138, R147, R148). -/
def UnitLawful (u : PortUnit) : Prop :=
  u.score ≤ Config.faultScore ∧ (u.link = .faulted ↔ u.score = Config.faultScore) ∧
    (u.faultReport = true → u.link = .faulted) ∧ ∀ f ∈ u.frame, ReceptionLawful f.received

theorem portsLawful_iff {s : State} : PortsLawful s ↔ ∀ p, UnitLawful (s.port p) := .rfl

/-- The law of a client in a state and on the port it is bound to (R35, R38). -/
def BindingLawful (x : Client) (u : PortUnit) : Prop :=
  x.cache.isSome = true ∧ (x.state = .suspect → u.link = .faulted) ∧
    (x.state = .opened → u.link = .faulted → u.faultReport = true)

theorem clientsLawful_iff {s : State} : ClientsLawful s ↔
    ∀ c, (s.client c).state ≠ .closed → ∃ p, (s.client c).port = some p ∧ BindingLawful (s.client c) (s.port p) := by
  unfold ClientsLawful BindingLawful
  refine forall_congr' fun c => forall_congr' fun _ => ⟨?_, ?_⟩
  · rintro ⟨hcache, p, hp, hsus, hopen⟩
    exact ⟨p, hp, hcache, hsus, hopen⟩
  · rintro ⟨p, hp, hcache, hsus, hopen⟩
    exact ⟨hcache, p, hp, hsus, hopen⟩

/-- A request that a port holds screened finds its client as its screening did, and no other port holds one for that client
(R126, R135). -/
def ScreenedMatch (s : State) : Prop :=
  ∀ p r k, (s.port p).slot = .working (.screened r k) →
    screen (s.client r.header.client) p r = .passed k ∧
      ∀ q r' k', (s.port q).slot = .working (.screened r' k') → r'.header.client = r.header.client → q = p

/-- A request is held screened on a FAULTED port alone, whose report has been taken (R145, R36). -/
def ScreenedFaulted (u : PortUnit) : Prop := u.holdsScreened → u.link = .faulted ∧ u.faultReport = false

theorem screenedOn_eq_some {u : PortUnit} {x : Request × Passage} :
    x ∈ screenedOn u ↔ u.slot = .working (.screened x.1 x.2) := by
  unfold screenedOn
  split
  · next r k h => rw [h]; simp [Prod.ext_iff]
  all_goals next h => rw [h]; simp

theorem screenedLawful_iff {s : State} : ScreenedLawful s ↔ ScreenedMatch s ∧ ∀ p, ScreenedFaulted (s.port p) := by
  unfold ScreenedLawful
  simp only [screenedOn_eq_some]
  constructor
  · intro h
    refine ⟨fun p r k hslot => ?_, fun p => ?_⟩
    · obtain ⟨-, -, hscreen, hone⟩ := h p (r, k) hslot
      exact ⟨hscreen, fun q r' k' hslot' hc => hone q (r', k') hslot' hc⟩
    · rintro ⟨r, k, hslot⟩
      obtain ⟨hlink, hreport, -⟩ := h p (r, k) hslot
      exact ⟨hlink, hreport⟩
  · rintro ⟨hmatch, hfaulted⟩ p ⟨r, k⟩ hslot
    obtain ⟨hscreen, hone⟩ := hmatch p r k hslot
    obtain ⟨hlink, hreport⟩ := hfaulted p ⟨r, k, hslot⟩
    exact ⟨hlink, hreport, hscreen, fun q y hslot' hc => hone q y.1 y.2 hslot' hc⟩

/-- The port law, the client law and the law of screened requests. -/
def LinkLaws (s : State) : Prop := PortsLawful s ∧ ClientsLawful s ∧ ScreenedLawful s

section

variable {s t : State} {p q : Port}

/-- Screened requests, where each still stands in a state with the same bindings of their clients. -/
theorem ScreenedMatch.mono (h : ScreenedMatch s)
    (hslot : ∀ q r k, (t.port q).slot = .working (.screened r k) → (s.port q).slot = .working (.screened r k) ∧
      SameBinding (s.client r.header.client) (t.client r.header.client)) : ScreenedMatch t := by
  intro p r k hp
  obtain ⟨hp', hbound⟩ := hslot p r k hp
  obtain ⟨hscreen, hone⟩ := h p r k hp'
  exact ⟨by rw [hbound.screen_eq, hscreen], fun q r' k' hq hc => hone q r' k' (hslot q r' k' hq).1 hc⟩

/-- The laws in two states whose clients have the same states, ports and caches, and whose ports the same link states, reports
and screened requests. -/
theorem LinkLaws.congr (h : LinkLaws s) (hunit : ∀ p, UnitLawful (t.port p))
    (hclient : ∀ c, (t.client c).state = (s.client c).state ∧ (t.client c).port = (s.client c).port ∧
      (t.client c).cache = (s.client c).cache)
    (hlink : ∀ p, (t.port p).link = (s.port p).link ∧ (t.port p).faultReport = (s.port p).faultReport)
    (hslot : ∀ p r k, (t.port p).slot = .working (.screened r k) → (s.port p).slot = .working (.screened r k)) :
    LinkLaws t := by
  obtain ⟨-, hclients, hscreened⟩ := h
  obtain ⟨hmatch, hfaulted⟩ := screenedLawful_iff.mp hscreened
  refine ⟨hunit, clientsLawful_iff.mpr fun c hc => ?_, screenedLawful_iff.mpr ⟨hmatch.mono fun p r k hp => ?_, fun p => ?_⟩⟩
  · obtain ⟨hst, hpt, hca⟩ := hclient c
    obtain ⟨p, hp, hb⟩ := clientsLawful_iff.mp hclients c (hst ▸ hc)
    obtain ⟨hl, hr⟩ := hlink p
    refine ⟨p, hpt.trans hp, ?_⟩
    unfold BindingLawful at hb ⊢
    rwa [hst, hca, hl, hr]
  · obtain ⟨hst, hpt, hca⟩ := hclient r.header.client
    exact ⟨hslot p r k hp, by rw [hst], hpt, hca⟩
  · rintro ⟨r, k, hp⟩
    obtain ⟨hl, hr⟩ := hlink p
    rw [hl, hr]
    exact hfaulted p ⟨r, k, hslot p r k hp⟩

/-- One port unit replaced by a lawful one with the same link state and report, which holds no request screened that it did not
hold. -/
theorem LinkLaws.setPort {x : PortUnit} (h : LinkLaws s) (hx : UnitLawful x) (hl : x.link = (s.port p).link)
    (hr : x.faultReport = (s.port p).faultReport)
    (hslot : ∀ r k, x.slot = .working (.screened r k) → (s.port p).slot = .working (.screened r k)) :
    LinkLaws (s.setPort p x) := by
  refine h.congr (fun q => ?_) (fun c => ⟨rfl, rfl, rfl⟩) (fun q => ?_) (fun q r k => ?_) <;> rw [State.port_setPort]
  · split
    · exact hx
    · exact h.1 q
  · split
    · next e => subst e; exact ⟨hl, hr⟩
    · exact ⟨rfl, rfl⟩
  · split
    · next e => subst e; exact hslot r k
    · exact id

/-- The response slot of a port replaced by one that holds no request screened. -/
theorem LinkLaws.setResponse {x : ResponseSlot} (h : LinkLaws s) (hx : ∀ r k, x ≠ .working (.screened r k)) :
    LinkLaws (s.setResponse p x) :=
  h.setPort (h.1 p) rfl rfl fun r k e => absurd e (hx r k)

/-- An operation over the tables that keeps the contexts. -/
theorem LinkLaws.tables (h : LinkLaws s) (hports : t.ports = s.ports) (hkept : ContextsKept s t) : LinkLaws t := by
  have hport : ∀ p, t.port p = s.port p := fun p => congrArg (fun v : Vector PortUnit 8 => v[p]) hports
  exact h.congr (fun p => hport p ▸ h.1 p) (fun c => ⟨hkept.state c, hkept.port c, hkept.cache c⟩)
    (fun p => by rw [hport]; exact ⟨rfl, rfl⟩) fun p r k e => hport p ▸ e

end

end Sys2Proof.Machine
end

section
/-! PROOFS. What a screened request that is carried out does to the bindings of the clients, and to the laws of ports and clients. -/

namespace Sys2Proof.Machine

open Sys2Proof.Claims Sys2Proof.Safety

/-! ### A request carried out -/

section

variable {s : State} {p : Port} {r : Request} {k : Passage}

/-- Freeing every slot of a client keeps its state, its port and its cache, and every other context (R27). -/
theorem State.freeAll_contextsKept (s : State) (c : ClientId) : ContextsKept s (s.freeAll c) := by
  have h := (Moves.freeSlots_all (W := NoWait) s c).contextsKept
  intro d
  by_cases e : c = d
  · subst e; rw [s.client_freeAll, h c]
  · rw [s.client_freeAll_of_ne c e, h d]

/-- A client context rewritten keeps every other. -/
theorem ContextsKept.setClient_of_ne {t : State} {c d : ClientId} (h : ContextsKept s t) (x : Client) (hd : d ≠ c) :
    (t.setClient c x).client d =
      { s.client d with slots := (t.client d).slots, queue := (t.client d).queue } := by
  rw [State.client_setClient, if_neg (Ne.symm hd), ← h d]

/-- What a request classed new does to the contexts: the states that an OPEN and a CLOSE write, and of the others none. -/
theorem carryNew_contexts (s : State) (p : Port) (c : ClientId) (body : Body) :
    (∀ d, d ≠ c → (((carryNew p c body s).1.client d).state = (s.client d).state ∧
      ((carryNew p c body s).1.client d).port = (s.client d).port ∧
      ((carryNew p c body s).1.client d).cache = (s.client d).cache)) ∧
    ((carryNew p c body s).1.client c).port = (s.client c).port ∧
    (((carryNew p c body s).1.client c).state = (s.client c).state ∨
      ((carryNew p c body s).1.client c).state = s.openState p ∨
      ((carryNew p c body s).1.client c).state = .closed) := by
  have hkept {t : State} (h : ContextsKept s t) : (∀ d, d ≠ c → ((t.client d).state = (s.client d).state ∧
      (t.client d).port = (s.client d).port ∧ (t.client d).cache = (s.client d).cache)) ∧
      (t.client c).port = (s.client c).port ∧ ((t.client c).state = (s.client c).state ∨
        (t.client c).state = s.openState p ∨ (t.client c).state = .closed) :=
    ⟨fun d _ => ⟨h.state d, h.port d, h.cache d⟩, h.port c, .inl (h.state c)⟩
  have hother (ho : bodyKind body ≠ .openClient) (hc : bodyKind body ≠ .close) (ha : bodyKind body ≠ .acquire) :=
    hkept (Moves.carryNew (W := NoWait) s p c body ho hc ha).contextsKept
  have hfree := s.freeAll_contextsKept c
  cases body with
  | openClient branch priority flags =>
    show _ ∧ ((carryTakeover p c branch priority flags s).1.client c).port = _ ∧ _
    simp only [carryNew]
    unfold carryTakeover
    split
    · exact hkept (.refl s)
    · dsimp only
      generalize s.freeAll c = t at hfree ⊢
      refine ⟨fun d hd => ?_, ?_, .inr (.inl ?_)⟩
      · rw [hfree.setClient_of_ne _ hd]; exact ⟨rfl, rfl, rfl⟩
      · rw [State.client_setClient, if_pos rfl]; exact hfree.port c
      · rw [State.client_setClient, if_pos rfl]
  | close =>
    simp only [carryNew, carryClose]
    generalize s.freeAll c = t at hfree ⊢
    refine ⟨fun d hd => ?_, ?_, .inr (.inr ?_)⟩
    · rw [hfree.setClient_of_ne _ hd]; exact ⟨rfl, rfl, rfl⟩
    · rw [State.client_setClient, if_pos rfl]; exact hfree.port c
    · rw [State.client_setClient, if_pos rfl]
  | acquire n mode limit => exact hkept (Moves.carryAcquire s c n mode limit).contextsKept
  | _ => exact hother nofun nofun nofun

/-- An OPEN for a CLOSED client is refused, or opens the client (R22, R23). -/
theorem carryPlainOpen_cases (s : State) (p : Port) (c : ClientId) (body : Body) :
    (∃ st, st ≠ .ok ∧ carryPlainOpen p c body s = refusal s st) ∨
      ∃ b pr adm, carryPlainOpen p c body s = (s.setClient c { s.client c with
        state := s.openState p, port := some p, branch := b, priority := pr, admin := adm }, .ok, .count 0) := by
  unfold carryPlainOpen
  split
  · next branch priority flags =>
    unfold carryOpen
    split
    · next st hrefused =>
      refine .inl ⟨st, ?_, rfl⟩
      rintro rfl
      unfold openAccepted at hrefused
      split at hrefused
      · split at hrefused <;> cases hrefused
      · cases hrefused
    · exact .inr ⟨_, _, _, rfl⟩
  · exact .inl ⟨.notOpen, nofun, rfl⟩

/-- A screened request carried out keeps the bindings of every other client. -/
theorem carryScreened_other (s : State) (k : Passage) (p : Port) (r : Request) {d : ClientId} (hd : d ≠ r.header.client) :
    ((Machine.carryScreened k p r s).1.client d).state = (s.client d).state ∧
      ((Machine.carryScreened k p r s).1.client d).port = (s.client d).port ∧
      ((Machine.carryScreened k p r s).1.client d).cache = (s.client d).cache := by
  have hcache (t : State) (a : Answer) : (t.writeCache r a).client d = t.client d := by
    unfold State.writeCache
    rw [State.client_setClient, if_neg (Ne.symm hd)]
  unfold carryScreened
  cases k with
  | plainOpen =>
    have hopen : (carryPlainOpen p r.header.client r.body s).1.client d = s.client d := by
      obtain ⟨st, -, e⟩ | ⟨b, pr, adm, e⟩ := carryPlainOpen_cases s p r.header.client r.body
      · rw [e]; rfl
      · rw [e]; dsimp only; rw [State.client_setClient, if_neg (Ne.symm hd)]
    dsimp only
    split
    · rw [hcache, hopen]; exact ⟨rfl, rfl, rfl⟩
    · rw [hopen]; exact ⟨rfl, rfl, rfl⟩
  | fresh =>
    dsimp only
    rw [hcache]
    exact (carryNew_contexts s p r.header.client r.body).1 d hd

/-- The state in which an OPEN leaves its client agrees with the link state of its port (R23, R36). -/
theorem State.openState_link (s : State) (p : Port) :
    (s.openState p = .suspect → (s.port p).link = .faulted) ∧ (s.openState p = .opened → (s.port p).link = .up) := by
  unfold State.openState
  split <;> simp [*]

/-- A screened request carried out leaves its own client as it was, or CLOSED, or lawfully bound to its port. -/
theorem carryScreened_own (hclients : ClientsLawful s) (hscreen : screen (s.client r.header.client) p r = .passed k) :
    (carryScreened k p r s).1.client r.header.client = s.client r.header.client ∨
      ((carryScreened k p r s).1.client r.header.client).state = .closed ∨
      (((Machine.carryScreened k p r s).1.client r.header.client).port = some p ∧
        BindingLawful ((carryScreened k p r s).1.client r.header.client) (s.port p)) := by
  have hlink := s.openState_link p
  have hopened (x : Client) (hcache : x.cache.isSome = true) (hst : x.state = s.openState p) :
      BindingLawful x (s.port p) := by
    refine ⟨hcache, fun h => hlink.1 (hst ▸ h), fun h hf => ?_⟩
    rw [hlink.2 (hst ▸ h)] at hf
    cases hf
  have hcache (t : State) (a : Answer) : (t.writeCache r a).client r.header.client = { t.client r.header.client with
      cache := some { seq := r.header.seq, kind := bodyKind r.body, check := requestCheck r, answer := a } } := by
    unfold State.writeCache
    rw [State.client_setClient, if_pos rfl]
  unfold carryScreened
  cases k with
  | plainOpen =>
    obtain ⟨st, hst, e⟩ | ⟨b, pr, adm, e⟩ := carryPlainOpen_cases s p r.header.client r.body
    · refine .inl ?_
      rw [e]
      dsimp only [refusal]
      rw [if_neg hst]
    · refine .inr (.inr ?_)
      rw [e]
      dsimp only
      rw [if_pos rfl, hcache, State.client_setClient, if_pos rfl]
      exact ⟨rfl, hopened _ rfl rfl⟩
  | fresh =>
    obtain ⟨hne, hport⟩ := screen_fresh_bound p _ r hscreen
    obtain ⟨-, hkeptPort, hst⟩ := carryNew_contexts s p r.header.client r.body
    dsimp only
    rw [hcache]
    obtain hst | hst | hst := hst
    · refine .inr (.inr ⟨hkeptPort.trans hport, rfl, ?_⟩)
      obtain ⟨q, hq, -, hsus, hopen⟩ := clientsLawful_iff.mp hclients _ hne
      obtain rfl := Option.some.inj (hport.symm.trans hq)
      exact ⟨fun h => hsus (hst ▸ h), fun h => hopen (hst ▸ h)⟩
    · exact .inr (.inr ⟨hkeptPort.trans hport, hopened _ rfl hst⟩)
    · exact .inr (.inl hst)

/-- A screened request that is carried out, and whose port then holds none screened, keeps the laws where no other port holds one
for its client. -/
theorem LinkLaws.carryScreened (h : LinkLaws s) (hscreen : screen (s.client r.header.client) p r = .passed k)
    (hone : ∀ q r' k', (s.port q).slot = .working (.screened r' k') → r'.header.client = r.header.client → q = p)
    {x : ResponseSlot} (hx : ∀ r' k', x ≠ .working (.screened r' k')) :
    LinkLaws ((Machine.carryScreened k p r s).1.setResponse p x) := by
  obtain ⟨hunits, hclients, hscreened⟩ := h
  obtain ⟨hmatch, hfaulted⟩ := screenedLawful_iff.mp hscreened
  have hports : ∀ q, (Machine.carryScreened k p r s).1.port q = s.port q :=
    fun q => congrArg (fun v : Vector PortUnit 8 => v[q]) (carryScreened_tablesOnly s k p r).ports
  have hport (q : Port) : ((Machine.carryScreened k p r s).1.setResponse p x).port q =
      if p = q then { s.port p with slot := x } else s.port q := by
    rw [State.port_setResponse, hports, hports]
  have hsame (q : Port) : (((Machine.carryScreened k p r s).1.setResponse p x).port q).link = (s.port q).link ∧
      (((Machine.carryScreened k p r s).1.setResponse p x).port q).faultReport = (s.port q).faultReport := by
    rw [hport]
    split
    · next e => subst e; exact ⟨rfl, rfl⟩
    · exact ⟨rfl, rfl⟩
  have hslot (q : Port) (r' : Request) (k' : Passage)
      (hq : (((Machine.carryScreened k p r s).1.setResponse p x).port q).slot = .working (.screened r' k')) :
      (s.port q).slot = .working (.screened r' k') ∧ r'.header.client ≠ r.header.client := by
    rw [hport] at hq
    split at hq
    · exact absurd hq (hx r' k')
    · next e => exact ⟨hq, fun hc => e (hone q r' k' hq hc).symm⟩
  have hother {d : ClientId} (hd : d ≠ r.header.client) := carryScreened_other s k p r hd
  refine ⟨portsLawful_iff.mpr fun q => ?_, clientsLawful_iff.mpr fun d hd => ?_,
    screenedLawful_iff.mpr ⟨hmatch.mono fun q r' k' hq => ?_, fun q => ?_⟩⟩
  · rw [hport]
    split
    · exact hunits p
    · exact hunits q
  · rw [State.setResponse_client] at hd ⊢
    have hbound {x : Client} {q : Port} (hb : BindingLawful x (s.port q)) :
        BindingLawful x (((Machine.carryScreened k p r s).1.setResponse p ‹_›).port q) := by
      obtain ⟨hl, hr⟩ := hsame q
      unfold BindingLawful at hb ⊢
      rwa [hl, hr]
    have hkept (hst : ((Machine.carryScreened k p r s).1.client d).state = (s.client d).state ∧
        ((Machine.carryScreened k p r s).1.client d).port = (s.client d).port ∧
        ((Machine.carryScreened k p r s).1.client d).cache = (s.client d).cache) :
        ∃ q, ((Machine.carryScreened k p r s).1.client d).port = some q ∧
          BindingLawful ((Machine.carryScreened k p r s).1.client d) (((Machine.carryScreened k p r s).1.setResponse p x).port q) := by
      obtain ⟨hst, hpt, hca⟩ := hst
      obtain ⟨q, hq, hb⟩ := clientsLawful_iff.mp hclients d (hst ▸ hd)
      refine ⟨q, hpt.trans hq, hbound ?_⟩
      unfold BindingLawful at hb ⊢
      rwa [hst, hca]
    by_cases e : d = r.header.client
    · subst e
      obtain hown | hown | ⟨hpt, hb⟩ := carryScreened_own hclients hscreen
      · exact hkept (by rw [hown]; exact ⟨rfl, rfl, rfl⟩)
      · exact absurd hown hd
      · exact ⟨p, hpt, hbound hb⟩
    · exact hkept (hother e)
  · obtain ⟨hq, hc⟩ := hslot q r' k' hq
    obtain ⟨hst, hpt, hca⟩ := hother hc
    refine ⟨hq, ?_⟩
    rw [State.setResponse_client]
    exact ⟨by rw [hst], hpt, hca⟩
  · rintro ⟨r', k', hq⟩
    obtain ⟨hl, hr⟩ := hsame q
    rw [hl, hr]
    exact hfaulted q ⟨r', k', (hslot q r' k' hq).1⟩

end

end Sys2Proof.Machine
end

section
/-! PROOFS. The laws of ports and clients: what stands before a screening, and a request that its port takes (R135, R145). -/

namespace Sys2Proof.Machine

open Sys2Proof.Claims Sys2Proof.Safety

/-! ### What stands before a screening -/

section

variable {s : State} {c : ClientId}

/-- The port holds a screened OPEN or CLOSE of the client. -/
def HoldsRebinding (u : PortUnit) (c : ClientId) : Prop :=
  ∃ r k, u.slot = .working (.screened r k) ∧ r.header.client = c ∧ k.rebinds r = true

theorem LinkLaws.carryEarlierOn (h : LinkLaws s) (c : ClientId) (q : Port) : LinkLaws (s.carryEarlierOn c q) := by
  obtain e | ⟨r, k, hslot, rfl, -, hscreen, e⟩ := s.carryEarlierOn_cases c q
  · rw [e]; exact h
  · rw [e]
    obtain ⟨hmatch, -⟩ := screenedLawful_iff.mp h.2.2
    exact h.carryScreened hscreen (hmatch q r k hslot).2 nofun

/-- Where the laws hold, a port's screened OPEN or CLOSE of the client is carried out. -/
theorem not_holdsRebinding_carryEarlierOn (h : LinkLaws s) (c : ClientId) (q : Port) :
    ¬ HoldsRebinding ((s.carryEarlierOn c q).port q) c := by
  by_cases hold : HoldsRebinding (s.port q) c
  · obtain ⟨r, k, hslot, rfl, hk⟩ := hold
    obtain ⟨hmatch, -⟩ := screenedLawful_iff.mp h.2.2
    have hcarried : s.carryEarlierOn r.header.client q =
        (Machine.carryScreened k q r s).1.setResponse q (.working (.done (Machine.carryScreened k q r s).2)) := by
      unfold State.carryEarlierOn
      simp only [hslot, hk, (hmatch q r k hslot).1, and_self, if_true]
    rintro ⟨r', k', hslot', -⟩
    rw [hcarried, State.port_setResponse, if_pos rfl] at hslot'
    cases hslot'
  · rintro ⟨r, k, hslot, hrest⟩
    obtain e | ⟨r', k', a, -, e⟩ := (s.carryEarlierOn_only c q).port q
    · exact hold ⟨r, k, e ▸ hslot, hrest⟩
    · rw [e] at hslot
      cases hslot

/-- After some ports' screened OPEN or CLOSE requests of the client are carried out, the laws hold and none of those ports holds
one. -/
theorem LinkLaws.foldl_carryEarlierOn (h : LinkLaws s) (c : ClientId) (l : List Port) :
    LinkLaws (l.foldl (fun t q => t.carryEarlierOn c q) s) ∧
      ∀ q ∈ l, ¬ HoldsRebinding ((l.foldl (fun t q => t.carryEarlierOn c q) s).port q) c := by
  induction l using List.reverseRecOn with
  | nil => exact ⟨h, nofun⟩
  | append_singleton l q ih =>
    obtain ⟨hlaws, hnone⟩ := ih
    rw [List.foldl_concat]
    refine ⟨hlaws.carryEarlierOn c q, fun q' hq' => ?_⟩
    by_cases e : q' = q
    · subst e; exact not_holdsRebinding_carryEarlierOn hlaws c q'
    · have hq' : q' ∈ l := by simpa [e] using hq'
      rintro ⟨r, k, hslot, hrest⟩
      obtain e | ⟨r', k', a, -, e⟩ := (State.carryEarlierOn_only _ c q).port q'
      · exact hnone q' hq' ⟨r, k, e ▸ hslot, hrest⟩
      · rw [e] at hslot
        cases hslot

theorem allPorts_eq_finRange : allPorts = List.finRange 8 := by decide

theorem LinkLaws.carryEarlier (h : LinkLaws s) (c : ClientId) : LinkLaws (s.carryEarlier c) :=
  (h.foldl_carryEarlierOn c allPorts).1

/-- After what stands before a screening, no port holds a screened OPEN or CLOSE of the client (R135). -/
theorem not_holdsRebinding_carryEarlier (h : LinkLaws s) (c : ClientId) (q : Port) :
    ¬ HoldsRebinding ((s.carryEarlier c).port q) c :=
  (h.foldl_carryEarlierOn c allPorts).2 q (by rw [allPorts_eq_finRange]; exact List.mem_finRange q)

/-- A request whose screening is then passed on finds no request for its client screened on another port (R135). -/
theorem no_other_screened (h : LinkLaws s) {p : Port} {r : Request} {k : Passage}
    (hscreen : screen ((s.carryEarlier r.header.client).client r.header.client) p r = .passed k) {q : Port} {r' : Request}
    {k' : Passage} (hslot : ((s.carryEarlier r.header.client).port q).slot = .working (.screened r' k'))
    (hc : r'.header.client = r.header.client) : q = p := by
  have hlaws := h.carryEarlier r.header.client
  obtain ⟨hmatch, -⟩ := screenedLawful_iff.mp hlaws.2.2
  obtain ⟨hscreen', -⟩ := hmatch q r' k' hslot
  rw [hc] at hscreen'
  have hfresh : k' = .fresh := by
    cases k' with
    | plainOpen => exact absurd ⟨r', _, hslot, hc, rfl⟩ (not_holdsRebinding_carryEarlier h r.header.client q)
    | fresh => rfl
  subst hfresh
  obtain ⟨hopen, hport⟩ := screen_fresh_bound q _ r' hscreen'
  by_contra hne
  unfold screen at hscreen
  rw [if_neg hopen, if_pos (by rw [hport]; exact fun e => hne (Option.some.inj e))] at hscreen
  split at hscreen <;> cases hscreen

/-- A request handed over that is screened and carried out, and whose port then holds none screened, keeps the laws. -/
theorem LinkLaws.carryHanded (h : LinkLaws s) (p : Port) (r : Request) {x : ResponseSlot}
    (hx : ∀ r' k', x ≠ .working (.screened r' k')) : LinkLaws ((s.carryHanded p r).1.setResponse p x) := by
  have hlaws := h.carryEarlier r.header.client
  have hone {q : Port} {r' : Request} {k k' : Passage} :=
    no_other_screened h (p := p) (r := r) (q := q) (r' := r') (k := k) (k' := k')
  unfold State.carryHanded carryOut
  generalize s.carryEarlier r.header.client = u at *
  split
  · exact hlaws.setResponse hx
  · next k hscreen => exact hlaws.carryScreened hscreen (fun q r' k' => hone hscreen) hx

/-- A request that its port takes keeps the laws. -/
theorem LinkLaws.take (h : LinkLaws s) (p : Port) (r : Request) (tm : Timing) : LinkLaws (s.take p r tm) := by
  cases tm with
  | later => exact h.setResponse nofun
  | atFrameEnd =>
    have hhanded : LinkLaws (s.setResponse p (.working (.handed r))) := h.setResponse nofun
    exact hhanded.carryHanded p r (x := .working (.done _)) nofun

end

end Sys2Proof.Machine
end

section
/-! PROOFS. The laws of ports and clients: a port's fault taken (R35, R145). -/

namespace Sys2Proof.Machine

open Sys2Proof.Claims Sys2Proof.Safety

/-! ### A port's fault taken -/

section

variable {s : State} {p : Port}

/-- The client is OPEN on the port. -/
def openOn (s : State) (p : Port) (c : ClientId) : Prop := (s.client c).state = .opened ∧ (s.client c).port = some p

/-- Of each client context all but the state, the slots and the change queue stands; the state is SUSPECT where `hit` says so,
and else stands too. -/
def Suspended (hit : ClientId → Prop) (s t : State) : Prop :=
  ∀ c, (hit c → t.client c = { s.client c with
      state := .suspect, slots := (t.client c).slots, queue := (t.client c).queue }) ∧
    (¬ hit c → t.client c = { s.client c with slots := (t.client c).slots, queue := (t.client c).queue })

/-- A fault taken for one client (R35). -/
theorem State.faultClient_suspended (s : State) (p : Port) (c : ClientId) :
    Suspended (fun d => d = c ∧ openOn s p d) s (s.faultClient p c) := by
  have hmoves (i : SlotId) (n : Name) : ContextsKept s ((s.endWait c i .link).followUp n) :=
    ((Moves.endWait (W := NoWait) s c i .link).trans (.followUp _ n)).contextsKept
  have hcases : s.faultClient p c = s ∧ ¬ openOn s p c ∨ openOn s p c ∧ ∃ t, ContextsKept s t ∧
      s.faultClient p c = t.setClient c { t.client c with state := .suspect } := by
    obtain ⟨hno, e⟩ | ⟨t, hst, hpt, e, ⟨-, rfl⟩ | ⟨i, n, m, w, -, rfl⟩⟩ := s.faultClient_cases p c
    · exact .inl ⟨e, hno⟩
    · exact .inr ⟨⟨hst, hpt⟩, t, .refl t, e⟩
    · exact .inr ⟨⟨hst, hpt⟩, _, hmoves i n, e⟩
  intro d
  obtain ⟨e, hno⟩ | ⟨hit, t, hkept, e⟩ := hcases
  · rw [e]
    exact ⟨fun h => absurd (h.1 ▸ h.2) hno, fun _ => rfl⟩
  · rw [e, State.client_setClient]
    by_cases hd : c = d
    · subst hd
      rw [if_pos rfl, hkept c]
      exact ⟨fun _ => rfl, fun hno => absurd ⟨rfl, hit⟩ hno⟩
    · rw [if_neg hd, hkept d]
      exact ⟨fun h => absurd h.1.symm hd, fun _ => rfl⟩

/-- A fault taken for some distinct clients, one after the other: each is taken as it stood before (R35). -/
theorem foldl_faultClient_suspended (s : State) (p : Port) {l : List ClientId} (hl : l.Nodup) :
    Suspended (fun d => d ∈ l ∧ openOn s p d) s (l.foldl (fun t c => t.faultClient p c) s) := by
  induction l generalizing s with
  | nil => exact fun d => ⟨fun h => absurd h.1 List.not_mem_nil, fun _ => rfl⟩
  | cons c l ih =>
    obtain ⟨hc, hl⟩ := List.nodup_cons.mp hl
    have hfirst := s.faultClient_suspended p c
    have hrest := ih (s.faultClient p c) hl
    have hsame {d : ClientId} (hd : d ≠ c) : openOn (s.faultClient p c) p d ↔ openOn s p d := by
      have e := (hfirst d).2 fun h => hd h.1
      unfold openOn
      rw [e]
    intro d
    rw [List.foldl_cons]
    generalize l.foldl (fun t c => t.faultClient p c) (s.faultClient p c) = t at hrest ⊢
    by_cases hd : d = c
    · subst hd
      have hkept := (hrest d).2 fun h => hc h.1
      refine ⟨fun h => ?_, fun h => ?_⟩
      · rw [hkept, (hfirst d).1 ⟨rfl, h.2⟩]
      · rw [hkept, (hfirst d).2 fun k => h ⟨List.mem_cons_self, k.2⟩]
    · have hstep := (hfirst d).2 fun h => hd h.1
      have hmem : (d ∈ c :: l ∧ openOn s p d) ↔ (d ∈ l ∧ openOn (s.faultClient p c) p d) := by
        rw [List.mem_cons, or_iff_right hd, hsame hd]
      dsimp only
      rw [hmem]
      refine ⟨fun h => ?_, fun h => ?_⟩
      · rw [(hrest d).1 h, hstep]
      · rw [(hrest d).2 h, hstep]

theorem allClients_eq_finRange : allClients = List.finRange 16 := by decide

theorem mem_allClients (c : ClientId) : c ∈ allClients := by rw [allClients_eq_finRange]; exact List.mem_finRange c

/-- A port's fault taken at the client table: its OPEN clients are SUSPECT, and no other context but its slots and change queue
changes (R35). -/
theorem State.suspendClients_suspended (s : State) (p : Port) : Suspended (openOn s p) s (s.suspendClients p) := by
  have h := foldl_faultClient_suspended (s.setPort p { s.port p with faultReport := false }) p
    (l := allClients) (by decide)
  intro c
  have hc := h c
  unfold State.suspendClients
  generalize allClients.foldl (fun t c => t.faultClient p c) (s.setPort p { s.port p with faultReport := false }) = t at hc ⊢
  exact ⟨fun hit => hc.1 ⟨mem_allClients c, hit⟩, fun hno => hc.2 fun k => hno k.2⟩

/-- A fault taken for some clients leaves the port units. -/
theorem ports_foldl_faultClient (s : State) (p : Port) (l : List ClientId) :
    (l.foldl (fun t c => t.faultClient p c) s).ports = s.ports := by
  induction l generalizing s with
  | nil => rfl
  | cons c l ih => rw [List.foldl_cons, ih]; exact (s.faultClient_tablesOnly p c).ports

/-- The port units when a fault has been taken: the report alone is gone. -/
theorem State.port_suspendClients (s : State) (p q : Port) :
    (s.suspendClients p).port q = if p = q then { s.port p with faultReport := false } else s.port q := by
  have h : (s.suspendClients p).ports = (s.setPort p { s.port p with faultReport := false }).ports :=
    ports_foldl_faultClient _ p allClients
  rw [← State.port_setPort]
  exact congrArg (fun v : Vector PortUnit 8 => v[q]) h

/-- The laws, but that the port may hold a request screened with its fault report outstanding. -/
def LinkLawsBefore (p : Port) (s : State) : Prop :=
  PortsLawful s ∧ ClientsLawful s ∧ ScreenedMatch s ∧ ∀ q, q ≠ p → ScreenedFaulted (s.port q)

theorem LinkLaws.before (h : LinkLaws s) (p : Port) : LinkLawsBefore p s := by
  obtain ⟨hunits, hclients, hscreened⟩ := h
  obtain ⟨hmatch, hfaulted⟩ := screenedLawful_iff.mp hscreened
  exact ⟨hunits, hclients, hmatch, fun q _ => hfaulted q⟩

/-- What stands before the suspension of a FAULTED port's clients, and what the suspension makes of it: a request may just have
been screened on the port (R145). -/
theorem linkLaws_suspendClients (h : LinkLawsBefore p s) (hlink : (s.port p).link = .faulted) :
    LinkLaws (s.suspendClients p) := by
  obtain ⟨hunits, hclients, hmatch, hfaulted⟩ := h
  have hsus := s.suspendClients_suspended p
  have hport := s.port_suspendClients p
  generalize s.suspendClients p = t at *
  have hlinks (q : Port) : ((t).port q).link = (s.port q).link := by
    rw [hport]
    split
    · next e => rw [e]
    · rfl
  have hsame (c : ClientId) : SameBinding (s.client c) ((t).client c) := by
    by_cases hit : openOn s p c
    · rw [(hsus c).1 hit]
      exact ⟨by simp [hit.1], rfl, rfl⟩
    · rw [(hsus c).2 hit]
      exact ⟨.rfl, rfl, rfl⟩
  refine ⟨portsLawful_iff.mpr fun q => ?_, clientsLawful_iff.mpr fun c hc => ?_,
    screenedLawful_iff.mpr ⟨hmatch.mono fun q r k hq => ⟨?_, hsame _⟩, fun q => ?_⟩⟩
  · rw [hport]
    split
    · obtain ⟨hscore, hiff, -, hframe⟩ := hunits p
      exact ⟨hscore, hiff, nofun, hframe⟩
    · exact hunits q
  · obtain ⟨q, hq, hcache, hsuspect, hopen⟩ := clientsLawful_iff.mp hclients c (mt (hsame c).closed.mpr hc)
    refine ⟨q, (hsame c).port.trans hq, (hsame c).cache ▸ hcache, fun hst => ?_, fun hst hf => ?_⟩
    · rw [hlinks]
      by_cases hit : openOn s p c
      · obtain rfl := Option.some.inj (hit.2.symm.trans hq)
        exact hlink
      · rw [(hsus c).2 hit] at hst
        exact hsuspect hst
    · by_cases hit : openOn s p c
      · rw [(hsus c).1 hit] at hst
        cases hst
      · rw [(hsus c).2 hit] at hst
        have hne : p ≠ q := by
          rintro rfl
          exact hit ⟨hst, hq⟩
        rw [hlinks] at hf
        rw [hport, if_neg hne]
        exact hopen hst hf
  · rw [hport] at hq
    split at hq
    · next e => subst e; exact hq
    · exact hq
  · rintro ⟨r, k, hq⟩
    rw [hport] at hq ⊢
    split at hq
    · rw [if_pos ‹_›]; exact ⟨hlink, rfl⟩
    · rw [if_neg ‹_›]; exact hfaulted q (fun e => ‹¬ p = q› e.symm) ⟨r, k, hq⟩

/-- A port comes to hold a request that its screening has passed on, with none for its client screened elsewhere (R145). -/
theorem LinkLaws.setScreened {r : Request} {k : Passage} (h : LinkLaws s)
    (hscreen : screen (s.client r.header.client) p r = .passed k)
    (hone : ∀ q r' k', (s.port q).slot = .working (.screened r' k') → r'.header.client = r.header.client → q = p) :
    LinkLawsBefore p (s.setResponse p (.working (.screened r k))) := by
  obtain ⟨hunits, hclients, hmatch, hfaulted⟩ := h.before p
  have hother (q : Port) (hq : q ≠ p) : (s.setResponse p (.working (.screened r k))).port q = s.port q := by
    rw [State.port_setResponse, if_neg (Ne.symm hq)]
  have hown : (s.setResponse p (.working (.screened r k))).port p =
      { s.port p with slot := .working (.screened r k) } := by
    rw [State.port_setResponse, if_pos rfl]
  have hclient (c : ClientId) : (s.setResponse p (.working (.screened r k))).client c = s.client c :=
    State.setResponse_client ..
  generalize s.setResponse p (.working (.screened r k)) = t at *
  refine ⟨portsLawful_iff.mpr fun q => ?_, clientsLawful_iff.mpr fun c hc => ?_, fun q r' k' hq => ?_,
    fun q hq => hother q hq ▸ hfaulted q hq⟩
  · by_cases hq : q = p
    · subst hq; rw [hown]; exact hunits q
    · rw [hother q hq]; exact hunits q
  · rw [hclient] at hc
    obtain ⟨q, hq, hb⟩ := clientsLawful_iff.mp hclients c hc
    refine ⟨q, hclient c ▸ hq, ?_⟩
    rw [hclient]
    by_cases e : q = p
    · subst e; rw [hown]; exact hb
    · rw [hother q e]; exact hb
  · rw [hclient]
    by_cases e : q = p
    · subst e
      rw [hown] at hq
      cases hq
      refine ⟨hscreen, fun q' r'' k'' hq' hc => ?_⟩
      by_contra e'
      rw [hother q' e'] at hq'
      exact e' (hone q' r'' k'' hq' hc)
    · rw [hother q e] at hq
      obtain ⟨hs, honly⟩ := hmatch q r' k' hq
      refine ⟨hs, fun q' r'' k'' hq' hc => ?_⟩
      by_cases e' : q' = p
      · subst e'
        rw [hown] at hq'
        cases hq'
        exact absurd (hone q r' k' hq hc.symm) e
      · rw [hother q' e'] at hq'
        exact honly q' r'' k'' hq' hc

/-- The request handed over on a port is screened, and the laws then hold but for the report still outstanding (R145). -/
theorem linkLaws_screenHanded (h : LinkLaws s) (p : Port) :
    LinkLawsBefore p (s.screenHanded p) ∧ ((s.screenHanded p).port p).link = (s.port p).link := by
  by_cases hh : ∃ r, (s.port p).slot = .working (.handed r)
  · obtain ⟨r, hslot⟩ := hh
    have hlaws := h.carryEarlier r.header.client
    have hport := s.carryEarlier_port p r.header.client (not_holdsScreened_of_handed hslot)
    have hone {q : Port} {r' : Request} {k k' : Passage} :=
      no_other_screened h (p := p) (r := r) (q := q) (r' := r') (k := k) (k' := k')
    unfold State.screenHanded
    rw [hslot]
    dsimp only
    generalize s.carryEarlier r.header.client = u at *
    have hlink (x : ResponseSlot) : ((u.setResponse p x).port p).link = (s.port p).link := by
      rw [State.port_setResponse, if_pos rfl, hport]
    cases hscreen : screen (u.client r.header.client) p r with
    | answered a =>
      have hdone : LinkLaws (u.setResponse p (.working (.done a))) := hlaws.setResponse nofun
      exact ⟨hdone.before p, hlink _⟩
    | passed k => exact ⟨hlaws.setScreened hscreen fun q r' k' => hone hscreen, hlink _⟩
  · have e : s.screenHanded p = s := s.screenHanded_self p fun r hr => hh ⟨r, hr⟩
    rw [e]
    exact ⟨h.before p, rfl⟩

/-- A port's fault report taken keeps the laws (R35). -/
theorem LinkLaws.takeFault (h : LinkLaws s) (p : Port) : LinkLaws (s.takeFault p) := by
  unfold State.takeFault
  split
  · next hreport =>
    obtain ⟨hbefore, hlink⟩ := linkLaws_screenHanded h p
    obtain ⟨-, -, hf, -⟩ := h.1 p
    exact linkLaws_suspendClients hbefore (hlink.trans (hf hreport))
  · exact h

end

end Sys2Proof.Machine
end

section
/-! PROOFS. A LINK_RESET taken, and what it keeps (R38, R150). -/

namespace Sys2Proof.Machine

open Sys2Proof.Claims Sys2Proof.Safety

/-! ### A LINK_RESET taken -/

section

variable {s : State} {p : Port}

/-- Some distinct clients returned to OPEN, one after the other: each is taken as it stood before (R38). -/
theorem foldl_reopen (s : State) (p : Port) {l : List ClientId} (hl : l.Nodup) :
    (∀ c, (l.foldl (fun v c => v.reopen p c) s).client c =
      if c ∈ l ∧ s.suspectOn p c = true then { s.client c with state := .opened } else s.client c) ∧
    (l.foldl (fun v c => v.reopen p c) s).ports = s.ports ∧
    (l.foldl (fun v c => v.reopen p c) s).records = s.records ∧
    (l.foldl (fun v c => v.reopen p c) s).channels = s.channels ∧
    (l.foldl (fun v c => v.reopen p c) s).generation = s.generation ∧
    (l.foldl (fun v c => v.reopen p c) s).clock = s.clock ∧
    (l.foldl (fun v c => v.reopen p c) s).inReset = s.inReset := by
  induction l generalizing s with
  | nil => exact ⟨fun c => by simp, rfl, rfl, rfl, rfl, rfl, rfl⟩
  | cons d l ih =>
    obtain ⟨hd, hl⟩ := List.nodup_cons.mp hl
    obtain ⟨hclient, hports, hrecords, hchannels, hgen, hclock, hreset⟩ := ih (s.reopen p d) hl
    have hstep : (s.reopen p d).ports = s.ports ∧ (s.reopen p d).records = s.records ∧
        (s.reopen p d).channels = s.channels ∧ (s.reopen p d).generation = s.generation ∧
        (s.reopen p d).clock = s.clock ∧ (s.reopen p d).inReset = s.inReset := by
      obtain e | ⟨-, e⟩ := s.reopen_cases p d <;> rw [e] <;> exact ⟨rfl, rfl, rfl, rfl, rfl, rfl⟩
    have hone (c : ClientId) : (s.reopen p d).client c =
        if c = d ∧ s.suspectOn p c = true then { s.client c with state := .opened } else s.client c := by
      unfold State.reopen
      by_cases hs : s.suspectOn p d = true
      · rw [if_pos hs, State.client_setClient]
        by_cases e : d = c
        · subst e; simp [hs]
        · simp [e, Ne.symm e]
      · rw [if_neg hs]
        by_cases e : c = d
        · subst e; simp [hs]
        · simp [e]
    obtain ⟨h1, h2, h3, h4, h5, h6⟩ := hstep
    rw [List.foldl_cons]
    refine ⟨fun c => ?_, hports.trans h1, hrecords.trans h2, hchannels.trans h3, hgen.trans h4, hclock.trans h5,
      hreset.trans h6⟩
    rw [hclient]
    by_cases e : c = d
    · subst e
      rw [if_neg fun k => hd k.1, hone]
      simp
    · have hsame : (s.reopen p d).client c = s.client c := by rw [hone, if_neg fun k => e k.1]
      have hsus : (s.reopen p d).suspectOn p c = s.suspectOn p c := by
        unfold State.suspectOn
        rw [hsame]
      rw [hsus, hsame]
      simp [e]

/-- A LINK_RESET taken once the fault report has been: its port, its clients, and what stands (R150, R38). -/
structure LinkReset (s : State) (p : Port) (x : ResponseSlot) (t : State) : Prop where
  port : t.port p = { s.port p with link := .up, score := 0, slot := x }
  other : ∀ q, q ≠ p → t.port q = s.port q
  client : ∀ c, t.client c = if s.suspectOn p c then { s.client c with state := .opened } else s.client c
  records : t.records = s.records
  channels : t.channels = s.channels
  generation : t.generation = s.generation
  clock : t.clock = s.clock
  inReset : t.inReset = s.inReset

/-- The answer to a LINK_RESET: the number of clients returned to OPEN (R150). -/
def resetAnswer (s : State) (p : Port) (seq : Byte) : Answer :=
  portAnswer seq (kindCode .linkReset) .ok (.count (allClients.filter fun c => s.suspectOn p c).length)

theorem State.resetLink_spec (s : State) (p : Port) (seq : Byte) :
    LinkReset (s.takeFault p) p (.ready (resetAnswer (s.takeFault p) p seq)) (s.resetLink p seq) := by
  unfold State.resetLink
  dsimp only
  generalize s.takeFault p = t
  obtain ⟨hclient, hports, hrecords, hchannels, hgen, hclock, hreset⟩ :=
    foldl_reopen (t.setPort p { t.port p with link := .up, score := 0 }) p (l := allClients) (by decide)
  have hsus (c : ClientId) : (t.setPort p { t.port p with link := .up, score := 0 }).suspectOn p c = t.suspectOn p c := rfl
  simp only [hsus, State.setPort_client, mem_allClients, true_and] at hclient
  generalize allClients.foldl (fun v c => v.reopen p c) (t.setPort p { t.port p with link := .up, score := 0 }) = u at *
  have hport (q : Port) : u.port q = if p = q then { t.port p with link := .up, score := 0 } else t.port q := by
    rw [← State.port_setPort]
    exact congrArg (fun v : Vector PortUnit 8 => v[q]) hports
  refine ⟨?_, fun q hq => ?_, fun c => ?_, hrecords, hchannels, hgen, hclock, hreset⟩
  · rw [State.port_setResponse, if_pos rfl, hport, if_pos rfl]
    rfl
  · rw [State.port_setResponse, if_neg (Ne.symm hq), hport, if_neg (Ne.symm hq)]
  · rw [State.setResponse_client, hclient]

/-- A taken fault leaves the port's slot free of requests in processing where it was. -/
theorem State.takeFault_slot (s : State) (p : Port) (hw : ∀ w, (s.port p).slot ≠ .working w) :
    ((s.takeFault p).port p).slot = (s.port p).slot ∧
      (PortsLawful s → ((s.takeFault p).port p).faultReport = false) := by
  unfold State.takeFault
  split
  · rw [s.screenHanded_self p fun r => hw _, s.port_suspendClients, if_pos rfl]
    exact ⟨rfl, fun _ => rfl⟩
  · next h => exact ⟨rfl, fun _ => Bool.eq_false_iff.mpr h⟩

theorem zero_ne_faultScore : 0 ≠ Config.faultScore := by decide

/-- A LINK_RESET taken keeps the laws: no client is SUSPECT on its port afterwards (R38). -/
theorem LinkLaws.resetLink (h : LinkLaws s) (p : Port) (seq : Byte) (hw : ∀ w, (s.port p).slot ≠ .working w) :
    LinkLaws (s.resetLink p seq) := by
  obtain ⟨hslot, hreport⟩ := s.takeFault_slot p hw
  obtain ⟨hunits, hclients, hscreened⟩ := h.takeFault p
  have hreport := hreport h.1
  have hreset := s.resetLink_spec p seq
  generalize s.takeFault p = u at *
  generalize s.resetLink p seq = t at *
  obtain ⟨hmatch, hfaulted⟩ := screenedLawful_iff.mp hscreened
  have hsame (c : ClientId) : SameBinding (u.client c) (t.client c) := by
    rw [hreset.client]
    split
    · next hs =>
      have hst : (u.client c).state = .suspect := by
        unfold State.suspectOn at hs
        simp only [Bool.and_eq_true, beq_iff_eq] at hs
        exact hs.1
      exact ⟨by simp [hst], rfl, rfl⟩
    · exact .rfl' _
  refine ⟨portsLawful_iff.mpr fun q => ?_, clientsLawful_iff.mpr fun c hc => ?_,
    screenedLawful_iff.mpr ⟨hmatch.mono fun q r k hq => ⟨?_, hsame _⟩, fun q => ?_⟩⟩
  · by_cases e : q = p
    · subst e
      obtain ⟨-, -, -, hframe⟩ := hunits q
      rw [hreset.port]
      exact ⟨Nat.zero_le _, ⟨nofun, fun hz => absurd hz zero_ne_faultScore⟩,
        fun hr => absurd (hreport.symm.trans hr) (by decide), hframe⟩
    · rw [hreset.other q e]; exact hunits q
  · obtain ⟨q, hq, hcache, hsuspect, hopen⟩ := clientsLawful_iff.mp hclients c (mt (hsame c).closed.mpr hc)
    refine ⟨q, (hsame c).port.trans hq, (hsame c).cache ▸ hcache, ?_⟩
    by_cases e : q = p
    · subst e
      rw [hreset.client, hreset.port]
      refine ⟨fun hst => ?_, nofun⟩
      split at hst
      · cases hst
      · next hno => exact absurd (by simp [State.suspectOn, hst, hq]) hno
    · have hno : ¬ u.suspectOn p c = true := by simp [State.suspectOn, hq, e]
      rw [hreset.client, if_neg hno, hreset.other q e]
      exact ⟨hsuspect, hopen⟩
  · by_cases e : q = p
    · subst e; rw [hreset.port] at hq; cases hq
    · rwa [hreset.other q e] at hq
  · rintro ⟨r, k, hq⟩
    by_cases e : q = p
    · subst e; rw [hreset.port] at hq; cases hq
    · rw [hreset.other q e] at hq ⊢
      exact hfaulted q ⟨r, k, hq⟩

end

end Sys2Proof.Machine
end

section
/-! PROOFS. Every command and every step keep the laws of ports, clients and screened requests. -/

namespace Sys2Proof.Machine

open Sys2Proof.Claims Sys2Proof.Safety

/-! ### Every command -/

section

variable {s t : State} {p : Port}

theorem no_frame : ∀ f ∈ (none : Option Frame), ReceptionLawful f.received := fun _ h => Option.not_mem_none _ h |>.elim

/-- A unit whose frame has ended, with the score lowered in UP (R143). -/
theorem UnitLawful.ended {u : PortUnit} (h : UnitLawful u) (hl : u.link = .up) (v : Half) :
    UnitLawful { u with frame := none, score := u.score - 1, overruns := v } := by
  obtain ⟨hscore, hiff, hreport, -⟩ := h
  have hne : u.score ≠ Config.faultScore := fun e => by rw [hl] at hiff; exact absurd (hiff.mpr e) (by decide)
  refine ⟨(Nat.sub_le _ _).trans hscore, ?_, hreport, no_frame⟩
  simp only [hl]
  refine ⟨nofun, fun e => ?_⟩
  have hlt : u.score < Config.faultScore := lt_of_le_of_ne hscore hne
  exact absurd e (((Nat.sub_le _ _).trans_lt hlt).ne)

/-- The end of a good frame keeps the laws where the taking of its request does. -/
theorem LinkLaws.goodFrame (h : LinkLaws s) (bytes : List Byte) {taken : State → State}
    (ht : ∀ u : State, LinkLaws u → (∀ w, (u.port p).slot ≠ .working w) → LinkLaws (taken u)) :
    LinkLaws (s.goodFrame p bytes taken) := by
  obtain ⟨-, e⟩ | ⟨-, -, e⟩ | ⟨f, -, hl, -, e⟩ | ⟨f, -, hl, ha, e⟩ := s.goodFrame_cases p bytes taken
  · rw [e]; exact h
  · rw [e]
    obtain ⟨hscore, hiff, hreport, -⟩ := h.1 p
    exact h.setPort ⟨hscore, hiff, hreport, no_frame⟩ rfl rfl fun _ _ => id
  · rw [e]; exact h.setPort (UnitLawful.ended (h.1 p) hl _) rfl rfl fun _ _ => id
  · rw [e]
    refine ht _ (h.setPort (UnitLawful.ended (h.1 p) hl (s.port p).overruns) rfl rfl fun _ _ => id) fun w hw => ?_
    rw [State.port_setPort, if_pos rfl] at hw
    dsimp only at hw
    unfold PortUnit.admits at ha
    rw [hw] at ha
    cases ha

/-- A bad frame keeps the laws: a port that it faults had no client SUSPECT and held nothing screened (R147, R148). -/
theorem LinkLaws.badFrame (h : LinkLaws s) (p : Port) : LinkLaws (s.setPort p (s.port p).bad) := by
  obtain ⟨hscore, hiff, hreport, -⟩ : UnitLawful (s.port p) := h.1 p
  cases hl : (s.port p).link with
  | faulted =>
    rw [PortUnit.bad_faulted hl]
    exact h.setPort ⟨hscore, hiff, hreport, no_frame⟩ rfl rfl fun _ _ => id
  | up =>
    by_cases hlow : (s.port p).score + 8 < 32
    · rw [PortUnit.bad_below hl hlow]
      refine h.setPort ⟨hlow.le, ?_, hreport, no_frame⟩ rfl rfl fun _ _ => id
      simp only [hl]
      exact ⟨nofun, fun e => absurd e hlow.ne⟩
    · rw [PortUnit.bad_limit hl (not_lt.mp hlow)]
      obtain ⟨hunits, hclients, hscreened⟩ := h
      obtain ⟨hmatch, hfaulted⟩ := screenedLawful_iff.mp hscreened
      have hnone : ¬ (s.port p).holdsScreened := fun hs => by
        obtain ⟨hf, -⟩ := hfaulted p hs
        rw [hl] at hf
        cases hf
      refine ⟨portsLawful_iff.mpr fun q => ?_, clientsLawful_iff.mpr fun c hc => ?_,
        screenedLawful_iff.mpr ⟨hmatch.mono fun q r k hq => ⟨?_, .rfl' _⟩, fun q => ?_⟩⟩
      · rw [State.port_setPort]
        split
        · exact ⟨le_rfl, ⟨fun _ => rfl, fun _ => rfl⟩, fun _ => rfl, no_frame⟩
        · exact hunits q
      · obtain ⟨q, hq, hcache, hsuspect, hopen⟩ := clientsLawful_iff.mp hclients c hc
        refine ⟨q, hq, hcache, ?_⟩
        rw [State.port_setPort]
        split
        · exact ⟨fun _ => rfl, fun _ _ => rfl⟩
        · exact ⟨hsuspect, hopen⟩
      · rw [State.port_setPort] at hq
        split at hq
        · next e => subst e; exact hq
        · exact hq
      · rintro ⟨r, k, hq⟩
        rw [State.port_setPort] at hq ⊢
        split at hq
        · exact absurd ⟨r, k, hq⟩ hnone
        · rw [if_neg ‹_›]; exact hfaulted q ⟨r, k, hq⟩

/-- LINK_RESET, ignored, taken or dropped, keeps the laws (R150). -/
theorem LinkLaws.linkReset {hd : Header} (h : LinkLaws s) (he : exec (.linkReset p hd) s = .next t) : LinkLaws t := by
  cases hl : (s.port p).link with
  | up =>
    cases (exec_linkReset_up hd hl).symm.trans he
    exact h.goodFrame _ fun u hu hw => hu.resetLink p hd.seq hw
  | faulted =>
    obtain ⟨hscore, hiff, hreport, -⟩ : UnitLawful (s.port p) := h.1 p
    by_cases hf : (s.port p).frame = none
    · cases (exec_linkReset_ignored hd hf).symm.trans he
      exact h
    · by_cases hw : ∃ w, (s.port p).slot = .working w
      · obtain ⟨w, hw⟩ := hw
        cases (exec_linkReset_working hd hl hf hw).symm.trans he
        exact h.setPort ⟨hscore, hiff, hreport, no_frame⟩ rfl rfl fun _ _ => id
      · have hw' : ∀ w, (s.port p).slot ≠ .working w := fun w e => hw ⟨w, e⟩
        obtain rfl := Host.Outcome.next.inj ((exec_linkReset_taken hd hl hf hw').symm.trans he)
        have hended : LinkLaws (s.setPort p { s.port p with frame := none }) :=
          h.setPort ⟨hscore, hiff, hreport, no_frame⟩ rfl rfl fun _ _ => id
        refine hended.resetLink p hd.seq fun w e => ?_
        rw [State.port_setPort, if_pos rfl] at e
        exact hw' w e

/-- ANSWER_PLACED keeps the laws, by the stage of the request in processing. -/
theorem LinkLaws.answerPlaced (h : LinkLaws s) (he : exec (.answerPlaced p) s = .next t) : LinkLaws t := by
  cases he
  split
  · exact h.setResponse nofun
  · next r k hslot =>
    obtain ⟨hmatch, -⟩ := screenedLawful_iff.mp h.2.2
    obtain ⟨hscreen, hone⟩ := hmatch p r k hslot
    exact h.carryScreened hscreen hone nofun
  · exact h.carryHanded p _ nofun
  · exact h
  · exact h

/-- A settle end keeps the laws, by the state of its channel. -/
theorem LinkLaws.settleEnd {g : ChannelId} {us : Nat} (h : LinkLaws s) (he : exec (.settleEnd g us) s = .next t) :
    LinkLaws t := by
  cases he
  split
  · split
    · exact h.tables (s.settleEnds_tablesOnly g).ports (Moves.settleEnds (W := NoWait) s g).contextsKept
    · exact h.tables rfl (.refl _)
  · exact h
  · exact h

theorem receptionLawful_none : ReceptionLawful noReception := ⟨by decide, by decide⟩

/-- FRAME_START keeps the laws: nothing is received yet (R139). -/
theorem LinkLaws.frameStart (h : LinkLaws s) (he : exec (.frameStart p) s = .next t) : LinkLaws t := by
  cases he
  split
  · exact h
  · obtain ⟨hscore, hiff, hreport, -⟩ : UnitLawful (s.port p) := h.1 p
    refine h.setPort ⟨hscore, hiff, hreport, fun f hf => ?_⟩ rfl rfl fun _ _ => id
    cases hf
    exact receptionLawful_none

/-- The laws hold after a chip reset (R137). -/
theorem linkLaws_reset : LinkLaws State.reset := by
  have hclient (c : ClientId) : State.reset.client c = resetClient := Vector.getElem_replicate (n := 16) c.isLt
  refine ⟨portsLawful_iff.mpr fun p => ?_, fun c hc => ?_, screenedLawful_iff.mpr ⟨fun p r k hp => ?_, ?_⟩⟩
  · rw [port_reset]
    exact ⟨Nat.zero_le _, ⟨nofun, fun hz => absurd hz zero_ne_faultScore⟩, nofun, no_frame⟩
  · rw [hclient] at hc
    exact absurd rfl hc
  · rw [port_reset] at hp
    cases hp
  · rintro p ⟨r, k, hp⟩
    rw [port_reset] at hp
    cases hp

/-- Every command keeps the laws. -/
theorem LinkLaws.exec {i : Instr} (h : LinkLaws s) (he : exec i s = .next t) : LinkLaws t := by
  have next {u : State} (hu : Machine.exec i s = .next u) (k : LinkLaws u) : LinkLaws t := by
    obtain rfl := Host.Outcome.next.inj (hu.symm.trans he)
    exact k
  have tables {u : State} (hu : Machine.exec i s = .next u) (hports : u.ports = s.ports)
      (hmoves : Moves NoWait s u) : LinkLaws t := next hu (h.tables hports hmoves.contextsKept)
  cases hr : instrRequest i with
  | some r =>
    obtain ⟨p, tm, hexec⟩ := exec_of_instrRequest hr
    exact next (hexec s) (h.goodFrame _ fun u hu _ => hu.take p r tm)
  | none =>
    cases i with
    | frameStart p => exact h.frameStart he
    | badFrame f =>
      by_cases hf : (s.port f.port).frame = none
      · exact next (exec_badFrame_ignored f.bits hf) h
      · exact next (exec_badFrame f.bits hf) (h.badFrame f.port)
    | unknownKind p hd kind payload => exact next rfl (h.goodFrame _ fun u hu _ => hu.setResponse nofun)
    | poll p f => exact next rfl (h.goodFrame _ fun u hu _ => hu.setResponse nofun)
    | probe p hd => exact next rfl (h.goodFrame _ fun u hu _ => hu.setResponse nofun)
    | linkReset p hd => exact h.linkReset he
    | answerPlaced p => exact h.answerPlaced he
    | portFault p => exact next rfl (h.takeFault p)
    | waitDeadline c j => exact tables rfl (s.waitDeadline_tablesOnly c j).ports (.waitDeadline s c j)
    | expiry c j => exact tables rfl (s.expire_tablesOnly c j).ports (.expire s c j)
    | revocation c j => exact tables rfl (s.revoke_tablesOnly c j).ports (.revoke s c j)
    | settleEnd g us => exact h.settleEnd he
    | chipReset =>
      refine next rfl (linkLaws_reset.congr (fun p => linkLaws_reset.1 p) (fun c => ⟨rfl, rfl, rfl⟩)
        (fun p => ⟨rfl, rfl⟩) fun p r k => id)
    | leaseClockTick =>
      cases he
      split
      · exact h
      · exact h.tables rfl fun c => by rw [s.client_clockAt]
    | unclockedFrame p =>
      obtain ⟨hscore, hiff, hreport, -⟩ : UnitLawful (s.port p) := h.1 p
      exact next rfl (h.setPort ⟨hscore, hiff, hreport, no_frame⟩ rfl rfl fun _ _ => id)
    | endOfReset => exact next rfl (h.tables rfl (.refl _))
    | _ => cases hr

/-- Every step keeps the laws. -/
theorem LinkLaws.step (h : LinkLaws s) (he : step s = .next t) : LinkLaws t := by
  obtain ⟨hfront, hempty⟩ := stepRunsTheFrontCommand
  cases hq : s.pending with
  | nil =>
    rw [hempty s hq] at he
    cases he
    exact h
  | cons i rest =>
    rw [hfront s i rest hq] at he
    exact LinkLaws.exec (s := { s with pending := rest }) (h.tables rfl (.refl _)) he

end

/-- Settles O20, from what each command does to the ports, the clients' bindings and the screened requests. -/
theorem stepKeepsPortAndClientLaws : Obligations.StepKeepsPortAndClientLaws :=
  fun _ _ hports hclients hscreened he => LinkLaws.step ⟨hports, hclients, hscreened⟩ he

end Sys2Proof.Machine
end

section
/-! PROOFS. The machine after reset (R5, R21, R58, R103, R115, R137), and the output pins (R89, R113). -/

namespace Sys2Proof.Machine

open Sys2Proof.Claims Sys2Proof.Safety

/-! ### The tables after reset -/

theorem client_reset (c : ClientId) : State.reset.client c = resetClient :=
  Vector.getElem_replicate (n := 16) c.isLt

theorem channel_reset (g : ChannelId) : State.reset.channel g = resetChannel :=
  Vector.getElem_replicate (n := 16) g.isLt

/-- The lists of the machine after reset agree: the directory is empty, and every slot is FREE. -/
theorem listsAgree_reset : ListsAgree State.reset := by
  have hmark (c : ClientId) (i : SlotId) : State.reset.changedMark c i = false := by
    unfold State.changedMark
    rw [client_reset]
    rfl
  refine ⟨⟨.nil, Nat.zero_le _, nofun⟩, fun c i => ?_, nofun, fun c => ⟨fun _ => ?_, fun i h => ?_⟩,
    fun c => ?_, nofun⟩
  · rw [slot_reset]
    exact ⟨nofun, nofun⟩
  · rw [client_reset]
    exact ⟨rfl, slot_reset c⟩
  · rw [hmark] at h
    cases h
  · rw [client_reset]
    refine ⟨.nil, .nil, fun i h => ?_⟩
    rw [slot_reset] at h
    cases h

theorem gatesLawful_reset : GatesLawful State.reset := by
  refine ⟨fun g h => ?_, nofun, fun g b => ?_, nofun, fun g h => ?_⟩ <;> rw [channel_reset] at *
  · exact absurd rfl h
  · exact ⟨nofun, fun ⟨_, h, _⟩ => absurd h List.not_mem_nil⟩
  · cases h <;> contradiction

theorem ranksLawful_reset : RanksLawful State.reset := fun c i j _ h => by
  rw [slot_reset] at h
  exact absurd rfl h

/-- Settles O60: after reset the directory is empty, every client is CLOSED and every port UP. -/
theorem resetSatisfiesEveryLaw : Obligations.ResetSatisfiesEveryLaw := by
  obtain ⟨hports, hclients, hscreened⟩ := linkLaws_reset
  obtain ⟨hdistinct, hcounter⟩ := generationLaws_tableLaw.reset
  exact ⟨listsAgree_reset, hports, hclients, waitsLawful_tableLaw.reset, hdistinct, hcounter, ranksLawful_reset,
    gatesLawful_reset, nofun, hscreened⟩

/-! ### The output pins -/

/-- A port's attention line is active exactly while an open client of the port has a change (R113). -/
theorem State.attention_iff (s : State) (p : Port) : s.attention p = true ↔
    ∃ c : ClientId, (s.client c).state ≠ .closed ∧ (s.client c).port = some p ∧ (s.client c).queue ≠ [] := by
  simp [State.attention, mem_allClients, and_assoc]

/-- Settles O45, state by state of a channel. -/
theorem outputPinsFollowTheTables : Obligations.OutputPinsFollowTheTables := by
  refine ⟨fun b => ⟨rfl, rfl, rfl⟩, fun e => ⟨rfl, rfl, rfl⟩, ⟨rfl, rfl, rfl⟩, fun x b hx => ?_, State.attention_iff⟩
  unfold lineSteps
  simp only [hx]
  exact ⟨rfl, rfl⟩

/-! ### The chip reset -/

/-- In the reset no frame is recognised (R137). -/
theorem exec_frameStart_inReset {s : State} (p : Port) (h : s.inReset = true) : exec (.frameStart p) s = .next s :=
  congrArg Host.Outcome.next (if_pos (.inl h))

/-- Settles O55: what each table holds after the reset, and what the reset holds off. -/
theorem chipResetLeavesNothing : Obligations.ChipResetLeavesNothing := by
  refine ⟨fun s => ⟨{ State.reset with pending := s.pending, inReset := true }, rfl, rfl, rfl, rfl, rfl, fun c => ?_,
    fun g => ?_, fun p => ?_, rfl⟩, fun s p => exec_frameStart_inReset p, fun s => exec_leaseClockTick_inReset, fun s => rfl⟩
  · have hclient : ({ State.reset with pending := s.pending, inReset := true } : State).client c = resetClient :=
      client_reset c
    rw [hclient]
    exact ⟨rfl, rfl, rfl, rfl, rfl, rfl, rfl, slot_reset c⟩
  · show (State.reset.channel g).binding = _ ∧ (State.reset.channel g).deadTime = _ ∧ (State.reset.channel g).state = _
    rw [channel_reset]
    exact ⟨rfl, rfl, rfl⟩
  · have hquiet : State.reset.attention p = false := by
      rw [Bool.eq_false_iff, ne_eq, State.attention_iff]
      rintro ⟨c, hopen, -⟩
      rw [client_reset] at hopen
      exact hopen rfl
    have hport := port_reset p
    refine ⟨?_, ?_, ?_, ?_, ?_, ?_, ?_, hquiet⟩ <;> exact congrArg _ hport

end Sys2Proof.Machine
end

section
/-! PROOFS. Ends by the state of a slot: CANCEL (R52), RELEASE (R66 to R69), the deadlines (R53, R70, R81), the settle end (R94,
R95); and the place an entry takes in a wait queue (R44). -/

namespace Sys2Proof.Machine

open Sys2Proof.Claims Sys2Proof.Safety

/-! ### CANCEL and RELEASE -/

section

variable {s : State} {c : ClientId} {slot : Byte} {i : SlotId} {n : Name} {m : Mode} {g : Gen}

/-- R52: a slot byte above 7. -/
theorem carryCancel_of_slot_above (s : State) (c : ClientId) (h : 7 < slot.toNat) :
    carryCancel c slot s = (s, .badParam, .nothing) := by
  unfold carryCancel
  rw [(slotOf_eq_none_iff slot).mpr h]
  rfl

/-- R52: a WAITING slot. -/
theorem carryCancel_of_waiting {w : Option Deadline} (hi : slot.toNat = i.val) (hx : s.slot c i = .waiting n m w) :
    carryCancel c slot s = (((s.leaveQueue n c i).setSlot c i .free).followUp n, .ok, .nothing) := by
  unfold carryCancel
  simp only [(slotOf_eq_some_iff slot i).mpr hi, hx]

/-- R52: an ENDED slot. -/
theorem carryCancel_of_ended {x : Option Gen} {e : EndCause} (hi : slot.toNat = i.val) (hx : s.slot c i = .ended n m x e) :
    carryCancel c slot s = ((s.setSlot c i .free).unpost c i, .late, .late e) := by
  unfold carryCancel
  simp only [(slotOf_eq_some_iff slot i).mpr hi, hx]

/-- R52: a slot that neither waits nor has ended. -/
theorem carryCancel_of_other (hi : slot.toNat = i.val) (hw : (s.slot c i).isWaiting = false)
    (he : (s.slot c i).isEnded = false) : carryCancel c slot s = (s, .notWaiting, .nothing) := by
  unfold carryCancel
  rw [(slotOf_eq_some_iff slot i).mpr hi]
  cases h : s.slot c i with
  | free | gating | held | recalled => simp only [h]; rfl
  | waiting => rw [h] at hw; cases hw
  | ended => rw [h] at he; cases he

/-- R66: a slot byte above 7. -/
theorem carryRelease_of_slot_above (s : State) (c : ClientId) (h : 7 < slot.toNat) :
    carryRelease c slot s = (s, .badParam, .nothing) := by
  unfold carryRelease
  rw [(slotOf_eq_none_iff slot).mpr h]
  rfl

/-- R67: a HELD or RECALLED slot. -/
theorem carryRelease_of_leased (hi : slot.toNat = i.val) (hl : (s.slot c i).leased = true)
    (hx : (s.slot c i).holding = some (n, m, g)) :
    carryRelease c slot s =
      (((((s.leaveHolders n c i).holderEnd n).setSlot c i .free).unpost c i).followUp n, .ok, .nothing) := by
  unfold carryRelease
  rw [(slotOf_eq_some_iff slot i).mpr hi]
  cases h : s.slot c i with
  | held | recalled => rw [h] at hx; cases hx; simp only [h]
  | free | waiting | gating | ended => rw [h] at hl; cases hl

/-- R68: a GATING slot. -/
theorem carryRelease_of_gating (hi : slot.toNat = i.val) (hx : s.slot c i = .gating n m g) :
    carryRelease c slot s = (((s.leaveHolders n c i).setSlot c i .free).followUp n, .ok, .nothing) := by
  unfold carryRelease
  simp only [(slotOf_eq_some_iff slot i).mpr hi, hx]

/-- R69: an ENDED slot. -/
theorem carryRelease_of_ended {x : Option Gen} {e : EndCause} (hi : slot.toNat = i.val) (hx : s.slot c i = .ended n m x e) :
    carryRelease c slot s = ((s.setSlot c i .free).unpost c i, .late, .late e) := by
  unfold carryRelease
  simp only [(slotOf_eq_some_iff slot i).mpr hi, hx]

/-- R66: a slot that holds nothing and has not ended. -/
theorem carryRelease_of_not_holding (hi : slot.toNat = i.val) (hx : s.slot c i = .free ∨ (s.slot c i).isWaiting = true) :
    carryRelease c slot s = (s, .notHeld, .nothing) := by
  unfold carryRelease
  rw [(slotOf_eq_some_iff slot i).mpr hi]
  cases h : s.slot c i with
  | free | waiting => simp only [h]; rfl
  | gating | held | recalled | ended => rw [h] at hx; rcases hx with hx | hx <;> cases hx

end

/-- Settles O38, from CANCEL by the state of its slot. -/
theorem cancelBySlotState : Obligations.CancelBySlotState := by
  refine fun s p h slot hn => ⟨fun hslot => ?_, fun i hi => ⟨fun n m w hx => ?_, fun n m g e hx => ?_, fun hw he => ?_⟩⟩
  · exact exec_of_carryNew rfl hn nofun (carryCancel_of_slot_above s _ hslot)
  · exact exec_of_carryNew rfl hn nofun (carryCancel_of_waiting hi hx)
  · exact exec_of_carryNew rfl hn nofun (carryCancel_of_ended hi hx)
  · exact exec_of_carryNew rfl hn nofun (carryCancel_of_other hi hw he)

/-- Settles O41, from RELEASE by the state of its slot. -/
theorem releaseBySlotState : Obligations.ReleaseBySlotState := by
  refine fun s p h slot hn => ⟨fun hslot => ?_, fun i hi => ⟨fun n m g hl hx => ?_, fun n m g hx => ?_,
    fun n m g e hx => ?_, fun hx => ?_⟩⟩
  · exact exec_of_carryNew rfl hn nofun (carryRelease_of_slot_above s _ hslot)
  · exact exec_of_carryNew rfl hn nofun (carryRelease_of_leased hi hl hx)
  · exact exec_of_carryNew rfl hn nofun (carryRelease_of_gating hi hx)
  · exact exec_of_carryNew rfl hn nofun (carryRelease_of_ended hi hx)
  · exact exec_of_carryNew rfl hn nofun (carryRelease_of_not_holding hi hx)

/-! ### The deadlines -/

section

variable {s : State} {c : ClientId} {i : SlotId} {n : Name} {m : Mode} {g : Gen}

theorem State.endWait_of_waiting {w : Option Deadline} (h : s.slot c i = .waiting n m w) (cause : EndCause) :
    s.endWait c i cause = ((s.leaveQueue n c i).setSlot c i (.ended n m none cause)).post c i .urgent := by
  unfold State.endWait
  simp only [h]

/-- A HELD or RECALLED slot ends with its holder end (R70, R81, R92). -/
theorem State.endHolding_of_leased (hl : (s.slot c i).leased = true) (h : (s.slot c i).holding = some (n, m, g))
    (cause : EndCause) : s.endHolding c i cause =
      (((s.leaveHolders n c i).setSlot c i (.ended n m (some g) cause)).post c i .urgent).holderEnd n := by
  unfold State.endHolding
  cases hx : s.slot c i with
  | held | recalled => rw [hx] at h; cases h; rfl
  | free | waiting | gating | ended => rw [hx] at hl; cases hl

/-- A GATING slot ends without one (R16). -/
theorem State.endHolding_of_gating (h : s.slot c i = .gating n m g) (cause : EndCause) : s.endHolding c i cause =
    ((s.leaveHolders n c i).setSlot c i (.ended n m (some g) cause)).post c i .urgent := by
  unfold State.endHolding
  simp only [h]

/-- A raised wait deadline is taken (R53). -/
theorem State.waitDeadline_raised {v : Clock} (h : s.slot c i = .waiting n m (some ⟨v, true⟩)) :
    s.waitDeadline c i = (s.endWait c i .timeout).followUp n := by
  unfold State.waitDeadline
  simp only [h, if_true]

theorem State.waitDeadline_not_raised (h : ∀ n m v, s.slot c i ≠ .waiting n m (some ⟨v, true⟩)) :
    s.waitDeadline c i = s := by
  unfold State.waitDeadline
  split
  · next n m d hx => exact if_neg fun hd => h n m d.value (by rw [hx, ← hd])
  · rfl

/-- A raised expiry is taken (R70). -/
theorem State.expire_raised {v : Clock}
    (h : s.slot c i = .held n m g ⟨v, true⟩ ∨ ∃ d, s.slot c i = .recalled n m g ⟨v, true⟩ d) :
    s.expire c i = (s.endHolding c i .expired).followUp n := by
  unfold State.expire
  obtain h | ⟨d, h⟩ := h <;> simp only [h, if_true]

theorem State.expire_not_raised (hheld : ∀ n m g v, s.slot c i ≠ .held n m g ⟨v, true⟩)
    (hrec : ∀ n m g v d, s.slot c i ≠ .recalled n m g ⟨v, true⟩ d) : s.expire c i = s := by
  unfold State.expire
  split
  · next n m g l hx => exact if_neg fun hd => hheld n m g l.value (by rw [hx, ← hd])
  · next n m g l d hx => exact if_neg fun hd => hrec n m g l.value d (by rw [hx, ← hd])
  · rfl

/-- A raised revocation is taken (R81). -/
theorem State.revoke_raised {l : Deadline} {v : Clock} (h : s.slot c i = .recalled n m g l ⟨v, true⟩) :
    s.revoke c i = (s.endHolding c i .revoked).followUp n := by
  unfold State.revoke
  simp only [h, if_true]

theorem State.revoke_not_raised (h : ∀ n m g l v, s.slot c i ≠ .recalled n m g l ⟨v, true⟩) : s.revoke c i = s := by
  unfold State.revoke
  split
  · next n m g l d hx => exact if_neg fun hd => h n m g l d.value (by rw [hx, ← hd])
  · rfl

end

/-- Settles O39, from each deadline's event, raised and not raised. -/
theorem deadlineEventsEndTheirSlots : Obligations.DeadlineEventsEndTheirSlots := by
  refine ⟨fun s c i n m v h => congrArg Host.Outcome.next ?_, fun s c i h => congrArg Host.Outcome.next (State.waitDeadline_not_raised h),
    fun s c i n m g v h => congrArg Host.Outcome.next ?_,
    fun s c i hheld hrec => congrArg Host.Outcome.next (State.expire_not_raised hheld hrec),
    fun s c i n m g l v h => congrArg Host.Outcome.next ?_, fun s c i h => congrArg Host.Outcome.next (State.revoke_not_raised h)⟩
  · rw [State.waitDeadline_raised h, State.endWait_of_waiting h]
  · rw [State.expire_raised h]
    obtain h | ⟨d, h⟩ := h <;> rw [State.endHolding_of_leased (by rw [h]; rfl) (by rw [h]; rfl)]
  · rw [State.revoke_raised h, State.endHolding_of_leased (by rw [h]; rfl) (by rw [h]; rfl)]

/-! ### The settle end -/

section

variable {s : State} {g : ChannelId} {n : Name} {r : Record}

/-- A settle end that finds a GATING holder, the first of its record (R94). -/
theorem State.settleBound_of_gating {pre post : List Holder} {h : Holder} {m : Mode} {gen : Gen} (hr : s.find n = some r)
    (hh : r.holders = pre ++ h :: post) (hpre : ∀ x ∈ pre, (s.slot x.client x.slot).isGating = false)
    (hx : s.slot h.client h.slot = .gating n m gen) :
    s.settleBound g n = (((s.setChannel g { s.channel g with
      state := .connected (s.client h.client).branch }).setSlot h.client h.slot
        (.held n m gen (leaseEnd s r))).post h.client h.slot .ordinary).evalRecall n := by
  have hfound : (s.find n).bind s.gatingHolder = some h := by
    rw [hr, Option.bind_some, State.gatingHolder, hh,
      List.find?_append, List.find?_eq_none.mpr fun x hx => by simp [hpre x hx], Option.none_or,
      List.find?_cons_of_pos (by rw [hx]; rfl)]
  have hlease : s.after (s.termMs n) = leaseEnd s r := State.newLease_of_find hr
  unfold State.settleBound
  simp only [hfound, hx, hlease]
  rfl

/-- A settle end that finds no GATING holder (R94). -/
theorem State.settleBound_of_no_gating (hr : s.find n = some r)
    (h : ∀ x ∈ r.holders, (s.slot x.client x.slot).isGating = false) :
    s.settleBound g n = s.setChannel g { s.channel g with state := .disconnected } := by
  have hfound : (s.find n).bind s.gatingHolder = none := by
    rw [hr, Option.bind_some, State.gatingHolder]
    exact List.find?_eq_none.mpr fun x hx => by simp [h x hx]
  unfold State.settleBound
  simp only [hfound]

/-- SETTLE_END on a SETTLING channel: the settle ends, or its timer runs on (R93). -/
theorem exec_settleEnd {us e : Nat} {dead : Half} (hst : (s.channel g).state = .settling e)
    (hdead : (s.channel g).deadTime = some dead) : exec (.settleEnd g us) s =
      .next (if dead.toNat ≤ e + us then s.settleEnds g
        else s.setChannel g { s.channel g with state := .settling (e + us) }) := by
  show execSettleEnd g us s = _
  unfold execSettleEnd State.deadTimeOf
  simp only [hst, hdead, Option.getD_some]

end

/-- Settles O44, from the settle end by the binding of its channel and the holders of its resource. -/
theorem settleEndConnectsOrFrees : Obligations.SettleEndConnectsOrFrees := by
  refine ⟨fun s g us e dead hst hdead => ⟨fun hrun => ?_, fun hend => ⟨fun hb => ?_, fun n r hb hr => ⟨fun hno => ?_,
    fun pre h post m gen hh hpre hx => ?_⟩⟩⟩, fun s g us hidle => ?_⟩
  · rw [exec_settleEnd hst hdead, if_neg (by omega)]
  · rw [exec_settleEnd hst hdead, if_pos hend, State.settleEnds]
    simp only [hb]
  · rw [exec_settleEnd hst hdead, if_pos hend, State.settleEnds, hb]
    exact congrArg Host.Outcome.next (State.settleBound_of_no_gating hr hno)
  · rw [exec_settleEnd hst hdead, if_pos hend, State.settleEnds, hb]
    exact congrArg Host.Outcome.next (State.settleBound_of_gating hr hh hpre hx)
  · show execSettleEnd g us s = _
    unfold execSettleEnd
    cases hst : (s.channel g).state with
    | settling e => unfold Channel.isSettling at hidle; rw [hst] at hidle; cases hidle
    | disconnected | connected b => rfl

/-! ### The place of an entry in a wait queue -/

/-- An entry joins a wait queue behind the entries of equal or more urgent priority at its head, and ahead of the others. -/
theorem insertWaiter_split (w : Waiter) {ws : List Waiter} (h : ws.Pairwise fun a b => a.priority ≤ b.priority) :
    ∃ pre post, ws = pre ++ post ∧ insertWaiter w ws = pre ++ w :: post ∧ (∀ x ∈ pre, x.priority ≤ w.priority) ∧
      ∀ x ∈ post, w.priority < x.priority := by
  induction ws with
  | nil => exact ⟨[], [], rfl, rfl, nofun, nofun⟩
  | cons x ws ih =>
    obtain ⟨hx, hws⟩ := List.pairwise_cons.mp h
    unfold insertWaiter
    by_cases hle : x.priority ≤ w.priority
    · obtain ⟨pre, post, rfl, e, hpre, hpost⟩ := ih hws
      rw [if_pos hle, e]
      exact ⟨x :: pre, post, rfl, rfl, List.forall_mem_cons.mpr ⟨hle, hpre⟩, hpost⟩
    · rw [if_neg hle]
      have hlt : w.priority < x.priority := lt_of_not_ge hle
      exact ⟨[], x :: ws, rfl, rfl, nofun, List.forall_mem_cons.mpr ⟨hlt, fun y hy => hlt.trans_le (hx y hy)⟩⟩

/-- An ordered wait queue stays ordered. -/
theorem pairwise_insertion {w : Waiter} {pre post : List Waiter}
    (h : (pre ++ post).Pairwise fun a b => a.priority ≤ b.priority) (hpre : ∀ x ∈ pre, x.priority ≤ w.priority)
    (hpost : ∀ x ∈ post, w.priority < x.priority) :
    (pre ++ w :: post).Pairwise fun a b => a.priority ≤ b.priority := by
  obtain ⟨h1, h2, h3⟩ := List.pairwise_append.mp h
  refine List.pairwise_append.mpr ⟨h1, List.pairwise_cons.mpr ⟨fun x hx => (hpost x hx).le, h2⟩, fun x hx y hy => ?_⟩
  obtain rfl | hy := List.mem_cons.mp hy
  · exact hpre x hx
  · exact h3 x hx y hy

/-- The records after an entry has joined a wait queue. -/
theorem State.find_enqueue (s : State) (c : ClientId) (i : SlotId) (n k : Name) (m : Mode) :
    (s.enqueue c i n m).find k = if k = n then
      (s.find n).map fun r => { r with waiters := insertWaiter ⟨c, i, m, (s.client c).priority⟩ r.waiters }
      else s.find k := by
  unfold State.enqueue
  rw [State.find_updateRecord]
  · simp only [State.setSlot_find]
  · exact fun _ => rfl

theorem State.slot_enqueue (s : State) (c d : ClientId) (i j : SlotId) (n : Name) (m : Mode) :
    (s.enqueue c i n m).slot d j = if c = d ∧ i = j then .waiting n m none else s.slot d j := by
  unfold State.enqueue
  rw [State.updateRecord_slot, State.slot_setSlot]

/-- Settles O35, from the place that the insertion finds. -/
theorem insertionByPriority : Obligations.InsertionByPriority := by
  intro s c i n m r hr hord
  obtain ⟨pre, post, e, hins, hpre, hpost⟩ := insertWaiter_split ⟨c, i, m, (s.client c).priority⟩ hord
  refine ⟨pre, post, e, hpre, hpost, ?_, ?_, fun k hk => ?_, ?_, fun d j hne => ?_⟩
  · exact pairwise_insertion (e ▸ hord) hpre hpost
  · rw [s.find_enqueue, if_pos rfl, hr, Option.map_some, hins]
  · rw [s.find_enqueue, if_neg hk]
  · rw [s.slot_enqueue, if_pos ⟨rfl, rfl⟩]
  · rw [s.slot_enqueue, if_neg fun h => hne ⟨h.1.symm, h.2.symm⟩]

end Sys2Proof.Machine
end

section
/-! PROOFS. The screening of a client that is not open on the arriving port (R126, R131, R134), the refusals (R161), and OPEN,
TAKEOVER and CLOSE (R22 to R28). -/

namespace Sys2Proof.Machine

open Sys2Proof.Claims Sys2Proof.Safety

/-! ### The binding check -/

section

variable {x : Client} {p : Port} {r : Request}

/-- R126: a client open on another port. -/
theorem screen_foreign (ho : x.state ≠ .closed) (hp : x.port ≠ some p) : screen x p r =
    .answered (answerFor r (if bodyKind r.body = .openClient then .inUse else .badClient) .nothing) := by
  unfold screen
  rw [if_neg ho, if_pos hp]
  split
  · next hk => rw [if_pos hk]; rfl
  · next hk => rw [if_neg hk]; rfl

/-- R126: a CLOSED client. -/
theorem screen_closed (hc : x.state = .closed) : screen x p r =
    if bodyKind r.body = .openClient then .passed .plainOpen
    else if bodyKind r.body = .close then screenClosedClose x p r
    else .answered (answerFor r .notOpen .nothing) := by
  unfold screen
  rw [if_pos hc]
  split
  · next hk => rw [if_pos hk]
  · next hk => rw [if_neg (by rw [hk]; decide), if_pos hk]
  · next h1 h2 => rw [if_neg h1, if_neg h2]; rfl

theorem screen_closed_close {h : Header} (hc : x.state = .closed) :
    screen x p ⟨h, .close⟩ = screenClosedClose x p ⟨h, .close⟩ := by
  rw [screen_closed hc, if_neg nofun]
  exact if_pos rfl

/-- R134: the CLOSE cache on its own port replays the CLOSE. -/
theorem screenClosedClose_replay {k : Cache} (hk : x.cache = some k) (hp : x.port = some p) (hkind : k.kind = .close)
    (hm : k.matches r = true) : screenClosedClose x p r = .answered { k.answer with replay := true } := by
  unfold screenClosedClose
  rw [hk]
  exact if_pos ⟨hkind, hp, hm⟩

/-- R134: any other cache does not. -/
theorem screenClosedClose_notOpen (h : ∀ k, x.cache = some k → x.port = some p → k.kind = .close → k.matches r = false) :
    screenClosedClose x p r = .answered (answerFor r .notOpen .nothing) := by
  unfold screenClosedClose
  split
  · next k hk => exact if_neg fun ⟨hkind, hp, hm⟩ => Bool.eq_false_iff.mp (h k hk hp hkind) hm
  · rfl

end

/-- Settles O21, from the screening of a client open elsewhere and of a CLOSED one. -/
theorem bindingCheckAnswers : Obligations.BindingCheckAnswers := fun s p r =>
  ⟨fun ho hp => screenedOff_of_screen (screen_foreign ho hp),
    fun hc ho hk => screenedOff_of_screen (by rw [screen_closed hc, if_neg ho, if_neg hk])⟩

/-- Settles O23, from the screening of a CLOSE for a CLOSED client. -/
theorem closeOfClosedClient : Obligations.CloseOfClosedClient := by
  intro s p h x hc
  have hscreen := screen_closed_close (p := p) (h := h) hc
  refine ⟨fun k hk hp hkind hseq hcheck => screenedOff_of_screen (hscreen.trans ?_),
    fun hno => screenedOff_of_screen (hscreen.trans ?_)⟩
  · exact screenClosedClose_replay hk hp hkind ((k.matches_iff _).mpr ⟨hseq, hkind.symm, hcheck⟩)
  · refine screenClosedClose_notOpen fun k hk hp hkind => Bool.eq_false_iff.mpr fun hm => ?_
    obtain ⟨hseq, -, hcheck⟩ := (k.matches_iff _).mp hm
    exact hno k hk hp hkind hseq hcheck

/-! ### Refusals -/

/-- Is the status a refusal: is its code at least 0x10 (Table 11-6)? -/
def Status.refuses (st : Status) : Bool := decide (16 ≤ (statusCode st).toNat)

/-- What a carrying out yields keeps the state where its status is a refusal. -/
inductive RefusalKeeps (s : State) : Result → Prop
  | same (st : Status) (pl : Payload) : RefusalKeeps s (s, st, pl)
  | accepted {t : State} {st : Status} {pl : Payload} (h : st.refuses = false) : RefusalKeeps s (t, st, pl)

theorem RefusalKeeps.of_refuses {s : State} {x : Result} (h : RefusalKeeps s x) (hx : x.2.1.refuses = true) : x.1 = s := by
  cases h with
  | same => rfl
  | accepted h => exact absurd (hx.symm.trans h) (by decide)

section

variable (s : State)

theorem refusalKeeps_takeover (p : Port) (c : ClientId) (branch priority flags : Byte) :
    RefusalKeeps s (carryTakeover p c branch priority flags s) := by
  unfold carryTakeover
  split
  · exact .same _ _
  · exact .accepted rfl

theorem refusalKeeps_answerAcquire (t : State) (c : ClientId) (i : SlotId) (n : Name) (m : Mode) (limit : Half)
    (position : Nat) : RefusalKeeps s (t.answerAcquire c i n m limit position) := by
  unfold State.answerAcquire
  repeat' split
  all_goals exact .accepted rfl

theorem refusalKeeps_acquire (c : ClientId) (n : Name) (mode : Byte) (limit : Half) :
    RefusalKeeps s (carryAcquire c n mode limit s) := by
  unfold carryAcquire
  split
  · exact .same _ _
  split
  · exact .same _ _
  split
  · exact .same _ _
  split
  · exact .same _ _
  · exact refusalKeeps_answerAcquire ..

theorem refusalKeeps_cancel (c : ClientId) (slot : Byte) : RefusalKeeps s (carryCancel c slot s) := by
  unfold carryCancel
  split
  · exact .same _ _
  split
  iterate 2 exact .accepted rfl
  all_goals exact .same _ _

theorem refusalKeeps_release (c : ClientId) (slot : Byte) : RefusalKeeps s (carryRelease c slot s) := by
  unfold carryRelease
  split
  · exact .same _ _
  split
  iterate 4 exact .accepted rfl
  all_goals exact .same _ _

theorem refusalKeeps_renew (c : ClientId) (slot : Byte) : RefusalKeeps s (carryRenew c slot s) := by
  unfold carryRenew
  split
  · exact .same _ _
  split
  iterate 2 exact .accepted rfl
  all_goals exact .same _ _

theorem refusalKeeps_fetch (c : ClientId) : RefusalKeeps s (carryFetch c s) := by
  unfold carryFetch
  split
  · exact .same _ _
  · exact .accepted rfl

theorem refusalKeeps_slotRead (c : ClientId) (slot : Byte) : RefusalKeeps s (carrySlotRead c slot s) := by
  unfold carrySlotRead
  split <;> exact .same _ _

theorem refusalKeeps_check (n : Name) (g : Gen) : RefusalKeeps s (carryCheck n g s) := by
  unfold carryCheck
  repeat' split
  all_goals exact .same _ _

theorem refusalKeeps_query (n : Name) : RefusalKeeps s (carryQuery n s) := by
  unfold carryQuery
  repeat' split
  all_goals exact .same _ _

theorem refusalKeeps_define (c : ClientId) (d : DefineParams) : RefusalKeeps s (carryDefine c d s) := by
  unfold carryDefine
  split
  · exact .same _ _
  split
  · exact .same _ _
  split
  · exact .same _ _
  split
  · exact .same _ _
  split
  · exact .accepted rfl
  split
  · exact .same _ _
  · exact .accepted rfl

theorem refusalKeeps_amend (c : ClientId) (a : AmendParams) : RefusalKeeps s (carryAmend c a s) := by
  unfold carryAmend
  split
  · exact .same _ _
  split
  · exact .same _ _
  split
  · exact .same _ _
  split
  · exact .same _ _
  · exact .accepted rfl

theorem refusalKeeps_retire (c : ClientId) (n : Name) (mode : Byte) : RefusalKeeps s (carryRetire c n mode s) := by
  unfold carryRetire
  split
  · exact .same _ _
  split
  · exact .same _ _
  split
  · exact .same _ _
  split
  · unfold State.retireGracefully
    repeat' split
    all_goals exact .accepted rfl
  · exact .accepted rfl

theorem refusalKeeps_seed (c : ClientId) (value : Gen) : RefusalKeeps s (carrySeed c value s) := by
  unfold carrySeed
  split
  · exact .same _ _
  split
  · exact .same _ _
  split
  · exact .same _ _
  · exact .accepted rfl

/-- R161: a request that is refused changes nothing. -/
theorem refusalKeeps_carryNew (p : Port) (c : ClientId) (body : Body) : RefusalKeeps s (carryNew p c body s) := by
  cases body with
  | openClient branch priority flags => exact refusalKeeps_takeover s p c branch priority flags
  | close => exact .accepted rfl
  | acquire n mode limit => exact refusalKeeps_acquire s c n mode limit
  | release slot => exact refusalKeeps_release s c slot
  | cancel slot => exact refusalKeeps_cancel s c slot
  | renew slot => exact refusalKeeps_renew s c slot
  | renewAll => exact .accepted rfl
  | fetch => exact refusalKeeps_fetch s c
  | slotRead slot => exact refusalKeeps_slotRead s c slot
  | check n g => exact refusalKeeps_check s n g
  | query n => exact refusalKeeps_query s n
  | directory start => exact .same _ _
  | define d => exact refusalKeeps_define s c d
  | amend a => exact refusalKeeps_amend s c a
  | retire n mode => exact refusalKeeps_retire s c n mode
  | seed value => exact refusalKeeps_seed s c value

theorem State.setClient_cache_self (c : ClientId) : s.setClient c { s.client c with cache := (s.client c).cache } = s := by
  have hset : s.clients.set c s.clients[c] = s.clients := Vector.set_getElem_self ..
  exact congrArg (fun v => { s with clients := v }) hset

/-- A request that is answered with a refusal changes no more than its client's cache (R129, R131, R161). -/
theorem carryOut_refused (p : Port) (r : Request) (h : (carryOut p r s).2.status.refuses = true) :
    ∃ k, (carryOut p r s).1 = s.setClient r.header.client { s.client r.header.client with cache := k } := by
  have hself := s.setClient_cache_self r.header.client
  unfold carryOut at h ⊢
  split at h <;> dsimp only
  · exact ⟨_, hself.symm⟩
  · next k _ =>
    unfold carryScreened at h ⊢
    cases k with
    | plainOpen =>
      obtain ⟨st, hst, e⟩ | ⟨b, pr, adm, e⟩ := carryPlainOpen_cases s p r.header.client r.body
      · rw [e]
        exact ⟨_, (if_neg hst).trans hself.symm⟩
      · rw [e] at h
        exact (Bool.false_ne_true h).elim
    | fresh =>
      have hkept := (refusalKeeps_carryNew s p r.header.client r.body).of_refuses h
      dsimp only
      rw [hkept]
      exact ⟨_, rfl⟩

end

theorem slot_answered (t : State) (p : Port) (a : Answer) : ((answered t p a).port p).slot = .working (.done a) := by
  unfold answered
  rw [State.port_setPort, if_pos rfl]
  rfl

/-- Settles O24: the codes by their table, and the refusals of every request. -/
theorem refusalChangesNothing : Obligations.RefusalChangesNothing := by
  refine ⟨rfl, rfl, fun a => rfl, fun i s t p r a hi htaken he hslot hcode => ?_⟩
  rw [exec_of_clientRequest hi, requestFrame_of_taken htaken] at he
  obtain rfl := Host.Outcome.next.inj he
  have ha : (s.carryHanded p r).2 = a :=
    Work.done.inj (ResponseSlot.working.inj ((slot_answered (s.carryHanded p r).1 p _).symm.trans hslot))
  unfold State.carryHanded at ha ⊢
  dsimp only
  generalize s.carryEarlier r.header.client = u at ha ⊢
  subst ha
  obtain ⟨k, hk⟩ := carryOut_refused u p r (decide_eq_true hcode)
  exact ⟨k, by rw [← hk]⟩

end Sys2Proof.Machine
end

section
/-! PROOFS. The operands of OPEN, and an OPEN for a CLOSED client carried out (R22, R23, R131). -/

namespace Sys2Proof.Machine

open Sys2Proof.Claims Sys2Proof.Safety

/-! ### The operands of OPEN -/

theorem flagsAdmin_openFlags (admin takeover : Bool) (reserved : BitVec 6) :
    flagsAdmin (openFlags admin takeover reserved) = admin := by
  rw [flagsAdmin, openFlags, BitVec.getLsbD_append, BitVec.getLsbD_append]
  simp

theorem flagsTakeover_openFlags (admin takeover : Bool) (reserved : BitVec 6) :
    flagsTakeover (openFlags admin takeover reserved) = takeover := by
  rw [flagsTakeover, openFlags, BitVec.getLsbD_append, BitVec.getLsbD_append]
  simp

theorem below8_eq_none_iff (b : Byte) : below8 b = none ↔ 7 < b.toNat := by
  unfold below8
  split <;> simp <;> omega

theorem below8_eq_some_iff (b : Byte) (i : Fin 8) : below8 b = some i ↔ b.toNat = i.val := by
  unfold below8
  split
  · simp [Fin.ext_iff]
  · simp; omega

section

variable {p : Port} {branch priority : Byte} {admin takeover : Bool} {reserved : BitVec 6}

/-- R22: an OPEN is refused with the status of its first failing check. -/
theorem openAccepted_refused {st : Status} (h : FirstFailing (openChecks p branch priority admin) st) :
    openAccepted p branch priority (openFlags admin takeover reserved) = .error st := by
  unfold openAccepted
  rw [flagsAdmin_openFlags]
  rcases h with ⟨hrange, rfl⟩ | ⟨hrange, h⟩
  · split
    · next b pr hb hpr =>
      rw [below8_eq_some_iff] at hb hpr
      omega
    · rfl
  · rcases h with ⟨hadm, rfl⟩ | ⟨-, h⟩
    · split
      · exact if_pos (by simpa using hadm)
      · next hno =>
        obtain ⟨b, hb⟩ := Option.ne_none_iff_exists'.mp (mt (below8_eq_none_iff branch).mp fun h => hrange (.inl h))
        obtain ⟨pr, hpr⟩ := Option.ne_none_iff_exists'.mp (mt (below8_eq_none_iff priority).mp fun h => hrange (.inr h))
        exact absurd hpr (hno b pr hb)
    · exact h.elim

/-- R22: an OPEN whose checks pass is accepted with its attributes. -/
theorem openAccepted_accepted {b pr : Fin 8} (h : AllPass (openChecks p branch priority admin))
    (hb : branch.toNat = b.val) (hpr : priority.toNat = pr.val) :
    openAccepted p branch priority (openFlags admin takeover reserved) = .ok (b, pr, admin) := by
  simp only [AllPass, openChecks, List.forall_mem_cons] at h
  obtain ⟨-, hadm, -⟩ := h
  unfold openAccepted
  simp only [(below8_eq_some_iff branch b).mpr hb, (below8_eq_some_iff priority pr).mpr hpr, flagsAdmin_openFlags]
  exact if_neg (by simpa using hadm)

end

/-! ### An OPEN for a CLOSED client -/

section

variable {s : State} {p : Port} {h : Header} {branch priority : Byte} {admin takeover : Bool} {reserved : BitVec 6}

theorem clientRequest_opening :
    clientRequest (opening takeover p h branch priority admin reserved .atFrameEnd) =
      some (p, openingRequest takeover h branch priority admin reserved, .atFrameEnd) := by
  cases takeover <;> rfl

theorem header_openingRequest : (openingRequest takeover h branch priority admin reserved).header = h := rfl

theorem screen_opening {x : Client} (hc : x.state = .closed) :
    screen x p (openingRequest takeover h branch priority admin reserved) = .passed .plainOpen :=
  (screen_closed hc).trans (if_pos rfl)

/-- R131: the refusal of an OPEN for a CLOSED client is not cached. -/
theorem carryScreened_plainOpen_refused {st : Status} (hf : FirstFailing (openChecks p branch priority admin) st) :
    carryScreened .plainOpen p (openingRequest takeover h branch priority admin reserved) s =
      (s, answerFor (openingRequest takeover h branch priority admin reserved) st .nothing) := by
  have hst : st ≠ .ok := by
    rintro rfl
    rcases hf with ⟨-, hf⟩ | ⟨-, ⟨-, hf⟩ | ⟨-, hf⟩⟩ <;> cases hf
  have hcarry : carryPlainOpen p h.client (openingRequest takeover h branch priority admin reserved).body s =
      (s, st, .nothing) := by
    show carryOpen p h.client branch priority (openFlags admin takeover reserved) s = _
    unfold carryOpen
    rw [openAccepted_refused hf]
    rfl
  unfold carryScreened
  dsimp only
  rw [header_openingRequest, hcarry]
  dsimp only
  rw [if_neg hst]
  rfl

/-- R23, R131: an OPEN for a CLOSED client opens it on the port, and its answer is cached. -/
theorem carryScreened_plainOpen_accepted {b pr : Fin 8} (hpass : AllPass (openChecks p branch priority admin))
    (hb : branch.toNat = b.val) (hpr : priority.toNat = pr.val) :
    carryScreened .plainOpen p (openingRequest takeover h branch priority admin reserved) s =
      (cached (s.setClient h.client (openedContext (s.client h.client) (s.openState p) p b pr admin))
        (openingRequest takeover h branch priority admin reserved)
        (answerFor (openingRequest takeover h branch priority admin reserved) .ok (.count 0)),
      answerFor (openingRequest takeover h branch priority admin reserved) .ok (.count 0)) := by
  have hcarry : carryPlainOpen p h.client (openingRequest takeover h branch priority admin reserved).body s =
      (s.setClient h.client (openedContext (s.client h.client) (s.openState p) p b pr admin), .ok, .count 0) := by
    show carryOpen p h.client branch priority (openFlags admin takeover reserved) s = _
    unfold carryOpen
    rw [openAccepted_accepted hpass hb hpr]
    rfl
  unfold carryScreened
  dsimp only
  rw [header_openingRequest, hcarry]
  rfl

theorem State.openState_of_up (hl : (s.port p).link = .up) : s.openState p = .opened := by
  unfold State.openState
  rw [hl]

theorem State.openState_of_faulted (hl : (s.port p).link = .faulted) : s.openState p = .suspect := by
  unfold State.openState
  rw [hl]

/-- A request handed over for which the screening passes on what a CLOSED client asks for (R131). -/
theorem State.carryHanded_opening {u : State} (hu : s.carryEarlier h.client = u) (hc : (u.client h.client).state = .closed) :
    s.carryHanded p (openingRequest takeover h branch priority admin reserved) =
      carryScreened .plainOpen p (openingRequest takeover h branch priority admin reserved) u := by
  unfold State.carryHanded carryOut
  rw [header_openingRequest, hu, screen_opening hc]

/-- A request screened and carried out when its answer is placed (R145). -/
theorem exec_answerPlaced_of_screened {r : Request} {k : Passage} (hw : (s.port p).slot = .working (.screened r k)) :
    exec (.answerPlaced p) s =
      .next ((carryScreened k p r s).1.setResponse p (.ready (carryScreened k p r s).2)) := by
  show execAnswerPlaced p s = _
  unfold execAnswerPlaced
  simp only [hw]

end

/-- Settles O25, from the checks of OPEN, at the frame's end, at ANSWER_PLACED and after a screening before the fault. -/
theorem openForClosedClient : Obligations.OpenForClosedClient := by
  intro s p h branch priority takeover admin reserved
  generalize hu : s.carryEarlier h.client = v
  intro r i u opened
  refine ⟨fun hc => ⟨?_, fun st hf => ⟨fun htaken => ?_, fun hhanded => ?_⟩,
    fun b pr hpass hb hpr => ⟨fun htaken => ?_, fun hhanded hl => ?_⟩⟩, fun hscreened => ⟨fun st hf => ?_,
    fun b pr hpass hb hpr hl => ?_⟩⟩
  · exact screenedOn_of_screen (by rw [header_openingRequest, hu]; exact screen_opening hc)
  · rw [exec_of_clientRequest clientRequest_opening, requestFrame_of_taken htaken, State.carryHanded_opening hu hc,
      carryScreened_plainOpen_refused hf]
  · rw [exec_answerPlaced_of_handed hhanded, State.carryHanded_opening hu hc, carryScreened_plainOpen_refused hf]
  · have hup : (v.port p).link = .up := by
      rw [← hu, s.carryEarlier_port p _ (not_holdsScreened_of_taken htaken)]
      exact htaken.1
    rw [exec_of_clientRequest clientRequest_opening, requestFrame_of_taken htaken, State.carryHanded_opening hu hc,
      carryScreened_plainOpen_accepted hpass hb hpr, State.openState_of_up hup]
    rfl
  · have hport : v.port p = s.port p := by
      rw [← hu, s.carryEarlier_port p _ (not_holdsScreened_of_handed hhanded)]
    rw [exec_answerPlaced_of_handed hhanded, State.carryHanded_opening hu hc,
      carryScreened_plainOpen_accepted hpass hb hpr, State.openState_of_faulted (by rw [hport]; exact hl), ← hport]
    rfl
  · rw [exec_answerPlaced_of_screened hscreened, carryScreened_plainOpen_refused hf]
    rfl
  · rw [exec_answerPlaced_of_screened hscreened, carryScreened_plainOpen_accepted hpass hb hpr,
      State.openState_of_faulted hl]
    rfl

end Sys2Proof.Machine
end

section
/-! PROOFS. TAKEOVER and CLOSE (R25 to R28), and what freeing a slot does. -/

namespace Sys2Proof.Machine

open Sys2Proof.Claims Sys2Proof.Safety

/-! ### Every slot of a client freed -/

section

variable {s : State} {c : ClientId} {i : SlotId} {n : Name} {m : Mode} {g : Gen}

theorem TablesOnly.outsideKept {t : State} (h : TablesOnly s t) : OutsideKept s t :=
  ⟨h.ports, h.clock, h.inReset, h.pending⟩

theorem State.busySlots_eq (s : State) (c : ClientId) : s.busySlots c = slotCount s c fun x => x != .free := by
  have hfree (x : Slot) : (!x.isFree) = (x != .free) := by cases x <;> rfl
  unfold State.busySlots slotCount
  rw [allSlots_eq_finRange]
  simp only [hfree]

theorem State.freeSlots_allSlots (s : State) (c : ClientId) :
    s.freeSlots c allSlots = (List.finRange 8).foldl (fun x j => x.freeSlot c j) s := by
  rw [allSlots_eq_finRange]
  unfold State.freeSlots
  rfl

/-- The tables after every slot of a client is freed and its context is then rewritten: the context, and what stands elsewhere
(R25, R26). -/
theorem freedContext (s : State) (c : ClientId) {x : Client → Client} :
    OutsideKept s ((s.freeAll c).setClient c (x ((s.freeAll c).client c))) ∧
      ((s.freeAll c).setClient c (x ((s.freeAll c).client c))).client c =
        x { s.client c with slots := Vector.replicate 8 .free, queue := [] } ∧
      ((s.freeAll c).setClient c (x ((s.freeAll c).client c))).records = (s.freeSlots c allSlots).records ∧
      ((s.freeAll c).setClient c (x ((s.freeAll c).client c))).channels = (s.freeSlots c allSlots).channels ∧
      ((s.freeAll c).setClient c (x ((s.freeAll c).client c))).generation = (s.freeSlots c allSlots).generation ∧
      ∀ d, d ≠ c → ((s.freeAll c).setClient c (x ((s.freeAll c).client c))).client d = (s.freeSlots c allSlots).client d := by
  have houtside := (s.freeAll_tablesOnly c).outsideKept
  have hown : (s.freeAll c).client c = { s.client c with slots := Vector.replicate 8 .free, queue := [] } := by
    rw [s.client_freeAll, (Moves.freeSlots_all (W := NoWait) s c).contextsKept c]
  have hother (d : ClientId) (hd : d ≠ c) := s.client_freeAll_of_ne c (Ne.symm hd)
  have hrest : (s.freeAll c).records = (s.freeSlots c allSlots).records ∧
      (s.freeAll c).channels = (s.freeSlots c allSlots).channels ∧
      (s.freeAll c).generation = (s.freeSlots c allSlots).generation := by
    rw [s.freeAll_eq]
    exact ⟨rfl, rfl, rfl⟩
  generalize s.freeAll c = t at *
  generalize s.freeSlots c allSlots = u at *
  obtain ⟨hrecords, hchannels, hgen⟩ := hrest
  refine ⟨houtside, ?_, hrecords, hchannels, hgen, fun d hd => ?_⟩
  · rw [State.client_setClient, if_pos rfl, hown]
  · rw [State.client_setClient, if_neg (Ne.symm hd), hother d hd]

theorem State.freeSlot_of_free (h : s.slot c i = .free) : s.freeSlot c i = s := by
  unfold State.freeSlot
  simp only [h]

theorem State.freeSlot_of_waiting {w : Option Deadline} (h : s.slot c i = .waiting n m w) :
    s.freeSlot c i = ((s.leaveQueue n c i).setSlot c i .free).followUp n := by
  unfold State.freeSlot
  simp only [h]

theorem State.freeSlot_of_gating (h : s.slot c i = .gating n m g) :
    s.freeSlot c i = ((s.leaveHolders n c i).setSlot c i .free).followUp n := by
  unfold State.freeSlot
  simp only [h]

theorem State.freeSlot_of_leased (hl : (s.slot c i).leased = true) (h : (s.slot c i).holding = some (n, m, g)) :
    s.freeSlot c i = (((s.leaveHolders n c i).setSlot c i .free).holderEnd n).followUp n := by
  unfold State.freeSlot
  cases hx : s.slot c i with
  | held | recalled => rw [hx] at h; cases h; rfl
  | free | waiting | gating | ended => rw [hx] at hl; cases hl

theorem State.freeSlot_of_ended {x : Option Gen} {e : EndCause} (h : s.slot c i = .ended n m x e) :
    s.freeSlot c i = s.setSlot c i .free := by
  unfold State.freeSlot
  simp only [h]

end

/-! ### TAKEOVER and CLOSE -/

theorem State.openState_eq (s : State) (p : Port) :
    s.openState p = if (s.port p).link = .faulted then .suspect else .opened := by
  unfold State.openState
  cases (s.port p).link <;> rfl

/-- Settles O26, from the checks of OPEN and the freeing of every slot. -/
theorem takeoverReplacesTheContext : Obligations.TakeoverReplacesTheContext := by
  intro s p h branch priority admin reserved r i hfresh
  have hflag : bodyKind r.body = .openClient → bodyTakeover r.body = true := fun _ => flagsTakeover_openFlags ..
  refine ⟨fun st hf => ?_, fun b pr hpass hb hpr => ?_⟩
  · refine completes_of_fresh rfl hfresh hflag ?_
    show carryTakeover p h.client branch priority (openFlags admin true reserved) s = _
    unfold carryTakeover
    rw [openAccepted_refused hf]
    rfl
  · have hcarry : carryTakeover p h.client branch priority (openFlags admin true reserved) s =
        ((s.freeAll h.client).setClient h.client { (s.freeAll h.client).client h.client with
          state := s.openState p, branch := b, priority := pr, admin := admin }, .ok, .count (s.busySlots h.client)) := by
      unfold carryTakeover
      rw [openAccepted_accepted hpass hb hpr]
    rw [s.busySlots_eq] at hcarry
    obtain ⟨houtside, hclient, hrecords, hchannels, hgen, hother⟩ := freedContext s h.client
      (x := fun y => { y with state := s.openState p, branch := b, priority := pr, admin := admin })
    rw [s.freeSlots_allSlots] at hrecords hchannels hgen hother
    refine ⟨_, completes_of_fresh rfl hfresh hflag hcarry, houtside, hclient.trans ?_, hrecords, hchannels, hgen, hother⟩
    rw [s.openState_eq]

/-- Settles O27, from the freeing of every slot, and of one slot by its state. -/
theorem closeFreesEverySlot : Obligations.CloseFreesEverySlot := by
  refine ⟨fun s p h hfresh => ?_, fun s c i => ⟨State.freeSlot_of_free, fun n m w hx => State.freeSlot_of_waiting hx,
    fun n m g hx => State.freeSlot_of_gating hx, fun n m g l hx => ?_, fun n m g l d hx => ?_,
    fun n m g e hx => State.freeSlot_of_ended hx⟩⟩
  · have hcarry : carryClose h.client s = ((s.freeAll h.client).setClient h.client
        { (s.freeAll h.client).client h.client with state := .closed, branch := 0, priority := 0, admin := false },
        .ok, .count (s.busySlots h.client)) := rfl
    rw [s.busySlots_eq] at hcarry
    obtain ⟨houtside, hclient, hrecords, hchannels, hgen, hother⟩ := freedContext s h.client
      (x := fun y => { y with state := .closed, branch := 0, priority := 0, admin := false })
    rw [s.freeSlots_allSlots] at hrecords hchannels hgen hother
    exact ⟨_, completes_of_fresh rfl hfresh nofun hcarry, houtside, hclient, hrecords, hchannels, hgen, hother⟩
  · exact State.freeSlot_of_leased (by rw [hx]; rfl) (by rw [hx]; rfl)
  · exact State.freeSlot_of_leased (by rw [hx]; rfl) (by rw [hx]; rfl)

end Sys2Proof.Machine
end

section
/-! PROOFS. The admission of an ACQUIRE (R39, R40) and its refusals. -/

namespace Sys2Proof.Machine

open Sys2Proof.Claims Sys2Proof.Safety

/-! ### The admission checks -/

section

variable {s : State} {c : ClientId} {n : Name} {r : Record} {mode : Byte} {m : Mode} {i : SlotId}

theorem mem_allSlots (i : SlotId) : i ∈ allSlots := by rw [allSlots_eq_finRange]; exact List.mem_finRange i

theorem modeOf_eq_none_iff (b : Byte) : modeOf b = none ↔ b ≠ 0#8 ∧ b ≠ 1#8 := by
  unfold modeOf
  split <;> simp [*]

theorem modeOf_eq_some_iff (b : Byte) (m : Mode) : modeOf b = some m ↔ namesMode b m := by
  unfold modeOf namesMode
  split
  · next h => subst h; simp [eq_comm]
  · split <;> simp [*, eq_comm]

/-- R40, check 3. -/
theorem State.hasWait_iff : s.hasWait c = true ↔ ∃ i, (s.slot c i).isWaiting = true := by
  simp [State.hasWait, mem_allSlots]

/-- R40, check 4. -/
theorem State.hasLive_iff : s.hasLive c n = true ↔ ∃ i, (s.slot c i).liveName = some n := by
  simp [State.hasLive, mem_allSlots]

/-- R40, check 5. -/
theorem State.rankBlocked_iff {rank : Fin 16} : s.rankBlocked c rank = true ↔
    ∃ i x q, (s.slot c i).liveName = some x ∧ s.find x = some q ∧ rank ≤ q.rank := by
  unfold State.rankBlocked
  simp only [List.any_eq_true, mem_allSlots, true_and]
  refine exists_congr fun i => ?_
  cases hx : (s.slot c i).liveName with
  | none => simp
  | some x => cases hq : s.find x <;> simp [hq]

/-- R40, check 6. -/
theorem State.firstFree_eq_none_iff : s.firstFree c = none ↔ ∀ i, s.slot c i ≠ .free := by
  have hfree (x : Slot) : x.isFree = true ↔ x = .free := by cases x <;> simp [Slot.isFree]
  unfold State.firstFree
  simp [List.find?_eq_none, mem_allSlots, hfree]

/-- R31: the slot allocated is the FREE slot of lowest index. -/
theorem State.lowestFree_of_firstFree (h : s.firstFree c = some i) : LowestFree s c i := by
  have hfree (x : Slot) : x.isFree = true ↔ x = .free := by cases x <;> simp [Slot.isFree]
  unfold State.firstFree at h
  rw [allSlots_eq_finRange, List.find?_eq_some_iff_append] at h
  obtain ⟨hi, pre, post, hl, hpre⟩ := h
  refine ⟨(hfree _).mp hi, fun j hj hj' => ?_⟩
  have hmem : j ∈ pre ++ i :: post := hl ▸ List.mem_finRange j
  have hsorted : (pre ++ i :: post).Pairwise (· < ·) := hl ▸ List.pairwise_lt_finRange 8
  obtain hj1 | hj1 := List.mem_append.mp hmem
  · simpa [(hfree _).mpr hj'] using hpre j hj1
  · obtain rfl | hj1 := List.mem_cons.mp hj1
    · exact lt_irrefl j hj
    · exact lt_asymm hj ((List.pairwise_cons.mp (List.pairwise_append.mp hsorted).2.1).1 j hj1)

/-- The admission checks on a present record, in the order of R40. -/
def admissionChecks (s : State) (c : ClientId) (r : Record) (m : Mode) : List (Prop × Status) :=
  [(r.state = .draining, .retiring), (m = .shared ∧ r.shareLimit = 1, .badMode),
    (∃ i, (s.slot c i).isWaiting = true, .waitBusy), (∃ i, (s.slot c i).liveName = some r.name, .already),
    (∃ i x q, (s.slot c i).liveName = some x ∧ s.find x = some q ∧ r.rank ≤ q.rank, .order),
    (∀ i, s.slot c i ≠ .free, .slotsFull)]

/-- R40: the admission is refused by the first of its checks that fails. -/
theorem State.admission_refused {st : Status} (h : FirstFailing (admissionChecks s c r m) st) :
    s.admission c r m = .error st := by
  unfold State.admission
  rcases h with ⟨hdrain, rfl⟩ | ⟨hdrain, h⟩
  · exact if_pos hdrain
  rw [if_neg hdrain]
  rcases h with ⟨hmode, rfl⟩ | ⟨hmode, h⟩
  · exact if_pos hmode
  rw [if_neg hmode]
  rcases h with ⟨hwait, rfl⟩ | ⟨hwait, h⟩
  · exact if_pos (State.hasWait_iff.mpr hwait)
  rw [if_neg (mt State.hasWait_iff.mp hwait)]
  rcases h with ⟨hlive, rfl⟩ | ⟨hlive, h⟩
  · exact if_pos (State.hasLive_iff.mpr hlive)
  rw [if_neg (mt State.hasLive_iff.mp hlive)]
  rcases h with ⟨hrank, rfl⟩ | ⟨hrank, h⟩
  · exact if_pos (State.rankBlocked_iff.mpr hrank)
  rw [if_neg (mt State.rankBlocked_iff.mp hrank)]
  rcases h with ⟨hfull, rfl⟩ | ⟨-, h⟩
  · rw [State.firstFree_eq_none_iff.mpr hfull]
  · exact h.elim

/-- R31, R40: an admission all of whose checks pass allocates the FREE slot of lowest index. -/
theorem State.admission_passed (h : AllPass (admissionChecks s c r m)) :
    ∃ i, s.admission c r m = .ok i ∧ LowestFree s c i := by
  simp only [AllPass, admissionChecks, List.forall_mem_cons] at h
  obtain ⟨hdrain, hmode, hwait, hlive, hrank, hfull, -⟩ := h
  obtain ⟨i, hi⟩ := Option.ne_none_iff_exists'.mp (mt State.firstFree_eq_none_iff.mp hfull)
  refine ⟨i, ?_, State.lowestFree_of_firstFree hi⟩
  unfold State.admission
  rw [if_neg hdrain, if_neg hmode, if_neg (mt State.hasWait_iff.mp hwait), if_neg (mt State.hasLive_iff.mp hlive),
    if_neg (mt State.rankBlocked_iff.mp hrank), hi]

/-- R40, check 2, on a present record, by the mode that the mode byte names. -/
theorem modeCheck_of_find (hr : s.find n = some r) (hm : namesMode mode m) :
    (mode = 1#8 ∧ ∃ r, s.find n = some r ∧ r.shareLimit = 1) ↔ m = .shared ∧ r.shareLimit = 1 := by
  obtain ⟨rfl, rfl⟩ | ⟨rfl, rfl⟩ := hm <;> simp [hr]

/-- R40: an ACQUIRE that fails a check is refused with the status of the first, and changes nothing. -/
theorem carryAcquire_refused {limit : Half} {st : Status} (h : FirstFailing (acquireChecks s c n mode) st) :
    carryAcquire c n mode limit s = refusal s st := by
  rcases h with ⟨hpar, rfl⟩ | ⟨hpar, h⟩
  · unfold carryAcquire
    split
    · rfl
    · next m hm =>
      refine if_pos (hpar.resolve_right fun hbad => ?_)
      rw [(modeOf_eq_none_iff mode).mpr hbad] at hm
      cases hm
  obtain ⟨m, hm⟩ := Option.ne_none_iff_exists'.mp (mt (modeOf_eq_none_iff mode).mp fun hbad => hpar (.inr hbad))
  have hn : n ≠ 0#16 := fun e => hpar (.inl e)
  rcases h with ⟨hnone, rfl⟩ | ⟨hnone, h⟩
  · unfold carryAcquire
    simp only [hm, if_neg hn, hnone]
  obtain ⟨r, hr⟩ := Option.ne_none_iff_exists'.mp hnone
  refine carryAcquire_of_admission_error hm hn hr (State.admission_refused ?_)
  have hname := State.find_name hr
  simp only [FirstFailing, modeCheck_of_find hr ((modeOf_eq_some_iff mode m).mp hm)] at h
  simpa only [FirstFailing, admissionChecks, hname, hr, Option.some.injEq, exists_eq_left', exists_and_left] using h

end

/-- Settles O30, from the first failing check of R39 and R40. -/
theorem acquireRefusedByFirstCheck : Obligations.AcquireRefusedByFirstCheck :=
  fun _ _ _ _ _ _ _ hfresh hf => completes_of_fresh rfl hfresh nofun (carryAcquire_refused hf)

end Sys2Proof.Machine
end

section
/-! PROOFS. The answer to an admitted ACQUIRE from its slot (R48 to R51). -/

namespace Sys2Proof.Machine

open Sys2Proof.Claims Sys2Proof.Safety

section

variable {s : State} {c : ClientId} {n : Name} {r : Record} {mode : Byte} {m : Mode} {i : SlotId} {limit : Half}

/-- An ACQUIRE all of whose checks pass is admitted with the FREE slot of lowest index (R31, R48). -/
theorem carryAcquire_admitted (hpass : AllPass (acquireChecks s c n mode)) (hm : namesMode mode m) :
    ∃ r i, s.find n = some r ∧ s.admission c r m = .ok i ∧ LowestFree s c i ∧ ∀ limit, carryAcquire c n mode limit s =
      ((s.enqueue c i n m).grantPass (some c) n).answerAcquire c i n m limit ((s.enqueue c i n m).position n c i) := by
  simp only [AllPass, acquireChecks, List.forall_mem_cons] at hpass
  obtain ⟨hpar, hnone, hdrain, hmode, hwait, hlive, hrank, hfull, -⟩ := hpass
  obtain ⟨r, hr⟩ := Option.ne_none_iff_exists'.mp hnone
  have hname := State.find_name hr
  have hadmits : AllPass (admissionChecks s c r m) := by
    simp only [AllPass, admissionChecks, List.forall_mem_cons]
    refine ⟨fun h => hdrain ⟨r, hr, h⟩, fun h => hmode ((modeCheck_of_find hr hm).mpr h), hwait, hname ▸ hlive,
      fun ⟨i, x, q, hx, hq, hle⟩ => hrank ⟨r, i, x, q, hr, hx, hq, hle⟩, hfull, nofun⟩
  obtain ⟨i, hadm, hfree⟩ := State.admission_passed hadmits
  refine ⟨r, i, hr, hadm, hfree, fun limit => ?_⟩
  unfold carryAcquire
  simp only [(modeOf_eq_some_iff mode m).mpr hm, if_neg fun h => hpar (.inl h), hr, hadm]

/-- The entry that an ACQUIRE puts in a wait queue. -/
def State.entry (s : State) (c : ClientId) (i : SlotId) (m : Mode) : Waiter := ⟨c, i, m, (s.client c).priority⟩

theorem mem_insertWaiter (w x : Waiter) (ws : List Waiter) : x ∈ insertWaiter w ws ↔ x = w ∨ x ∈ ws := by
  induction ws with
  | nil => simp [insertWaiter]
  | cons y ws ih =>
    unfold insertWaiter
    split
    · simp only [List.mem_cons, ih, or_left_comm]
    · simp only [List.mem_cons]

/-- No entry of a list names a FREE slot (R29). -/
theorem not_entry_of_free (hb : ListsBacked s) (hr : s.find n = some r) (hfree : s.slot c i = .free) :
    ∀ w ∈ r.waiters, ¬ (w.client = c ∧ w.slot = i) := by
  rintro w hw ⟨rfl, rfl⟩
  obtain ⟨hwaiters, -⟩ := hb r (List.mem_of_find?_eq_some hr)
  have hwait := (hwaiters w hw).1
  rw [hfree] at hwait
  cases hwait

theorem State.waitersOf_enqueue (hr : s.find n = some r) :
    (s.enqueue c i n m).waitersOf n = insertWaiter (s.entry c i m) r.waiters := by
  unfold State.waitersOf
  rw [s.find_enqueue, if_pos rfl, hr]
  rfl

/-- The place that the entry took on its insertion (R51). -/
theorem State.position_enqueue (hb : ListsBacked s) (hr : s.find n = some r) (hfree : s.slot c i = .free) :
    ∃ q, ((s.enqueue c i n m).waitersOf n)[q]? = some ⟨c, i, m, (s.client c).priority⟩ ∧
      (s.enqueue c i n m).position n c i = q + 1 := by
  refine ⟨_, ?_, rfl⟩
  rw [State.waitersOf_enqueue hr]
  have hown : s.entry c i m ∈ insertWaiter (s.entry c i m) r.waiters := (mem_insertWaiter ..).mpr (.inl rfl)
  have hlt := List.findIdx_lt_length_of_exists (p := fun w : Waiter => w.client == c && w.slot == i)
    ⟨_, hown, by simp [State.entry]⟩
  have hfound := List.findIdx_getElem (w := hlt)
  rw [List.getElem?_eq_getElem hlt]
  refine congrArg some (((mem_insertWaiter _ _ _).mp (List.getElem_mem hlt)).resolve_right fun hmem => ?_)
  exact not_entry_of_free hb hr hfree _ hmem (by simpa using hfound)

/-- R48: the answer from a HELD slot. -/
theorem State.answerAcquire_of_held {k : Nat} {a : Name} {b : Mode} {g : Gen} {l : Deadline} (h : s.slot c i = .held a b g l) :
    s.answerAcquire c i n m limit k = (s.evalRecall n, .granted, .granted i g l.value) := by
  unfold State.answerAcquire
  simp only [h]

/-- R48: the answer from a GATING slot. -/
theorem State.answerAcquire_of_gating {k : Nat} {a : Name} {b : Mode} {g : Gen} {ch : ChannelId}
    (h : s.slot c i = .gating a b g) (hg : s.gateOf n = some ch) :
    s.answerAcquire c i n m limit k = (s.evalRecall n, .pending, .pending i g ch (s.deadTimeOf ch)) := by
  have hreport : s.gateReport n = (ch, s.deadTimeOf ch) := by
    unfold State.gateReport
    rw [hg]
  unfold State.answerAcquire
  simp only [h, hreport]

/-- R48 to R51: the answer from a slot that waits on, by the wait limit. -/
theorem State.answerAcquire_of_waiting {k : Nat} (h : (s.slot c i).isWaiting = true) :
    s.answerAcquire c i n m limit k =
      if limit = 0#16 ∨ (s.client c).state = .suspect then
        (((s.leaveQueue n c i).setSlot c i .free).evalRecall n, .unavailable, .nothing)
      else if limit = 65535#16 then (s.evalRecall n, .queued, .queued i k)
      else ((s.setSlot c i (.waiting n m (some (dueIn s limit)))).evalRecall n, .queued, .queued i k) := by
  unfold State.answerAcquire
  cases hx : s.slot c i with
  | waiting => rfl
  | free | gating | held | recalled | ended => rw [hx] at h; cases h

end

/-- Settles O31, from the admission and the answer by the state of the slot after the grant pass. -/
theorem admittedAcquireAnsweredFromItsSlot : Obligations.AdmittedAcquireAnsweredFromItsSlot := by
  intro s p h n mode limit m r cmd c hb hfresh hpass hm
  obtain ⟨rec, i, hr, -, hfree, hcarry⟩ := carryAcquire_admitted hpass hm
  obtain ⟨q, hq, hposition⟩ := State.position_enqueue (m := m) hb hr hfree.1
  refine ⟨i, q, hfree, hq, ?_⟩
  have hcarry := hcarry limit
  rw [hposition] at hcarry
  have hstate : (((s.enqueue c i n m).grantPass (some c) n).client c).state = (s.client c).state :=
    ((Moves.enqueue (W := fun _ _ => True) s c i n m trivial).trans (.grantPass _ _ n)).contextsKept.state c
  have hdue : dueIn ((s.enqueue c i n m).grantPass (some c) n) limit = dueIn s limit := by
    unfold dueIn
    rw [((s.enqueue c i n m).grantPass_tablesOnly (some c) n).clock]
    rfl
  generalize (s.enqueue c i n m).grantPass (some c) n = u at *
  refine ⟨fun a b g l hx => ?_, fun a b g ch hx hg => ?_, fun hw hlimit => ?_, fun hw hne hlimit => ?_,
    fun hw hne hzero hlimit => ?_⟩ <;> refine completes_of_fresh rfl hfresh nofun (hcarry.trans ?_)
  · exact State.answerAcquire_of_held hx
  · exact State.answerAcquire_of_gating hx hg
  · rw [State.answerAcquire_of_waiting hw, hstate, if_pos hlimit]
  · rw [State.answerAcquire_of_waiting hw, hstate, if_neg (by simp [hlimit, hne]), if_pos hlimit]
  · rw [State.answerAcquire_of_waiting hw, hstate, if_neg (by simp [hzero, hne]), if_neg hlimit, hdue]

end Sys2Proof.Machine
end

section
/-! PROOFS. LINK_RESET as a command (R150, R38). -/

namespace Sys2Proof.Machine

open Sys2Proof.Claims Sys2Proof.Safety

/-! ### LINK_RESET -/

section

variable {s t : State} {p : Port} {h : Header}

/-- A LINK_RESET that is taken ends its frame and is then taken at the port and the client table (R150). -/
theorem exec_linkReset_of_resetTaken (h : Header) (ht : ResetTaken s p) : ∃ score,
    exec (.linkReset p h) s = .next ((s.setPort p { s.port p with frame := none, score := score }).resetLink p h.seq) := by
  obtain ht | ⟨hl, hf, hw⟩ := ht
  · exact ⟨_, (exec_linkReset_up h ht.1).trans (congrArg Host.Outcome.next (State.goodFrame_of_taken ht))⟩
  · exact ⟨_, exec_linkReset_taken h hl hf hw⟩

/-- The attention lines read no more of a client than whether it is open, its port, and whether its change queue is empty
(R113). -/
theorem State.attention_congr (q : Port) (h : ∀ c, ((t.client c).state ≠ .closed ↔ (s.client c).state ≠ .closed) ∧
    (t.client c).port = (s.client c).port ∧ (t.client c).queue = (s.client c).queue) : t.attention q = s.attention q := by
  rw [Bool.eq_iff_iff, State.attention_iff, State.attention_iff]
  refine exists_congr fun c => ?_
  obtain ⟨hstate, hport, hqueue⟩ := h c
  rw [hstate, hport, hqueue]

end

/-- Settles O15, from the LINK_RESET taken, which finds no report outstanding, and the one dropped. -/
theorem linkResetReopensThePort : Obligations.LinkResetReopensThePort := by
  refine ⟨fun s p h ht hreport => ?_, fun s p h w hl hf hw => exec_linkReset_working h hl hf hw⟩
  obtain ⟨score, he⟩ := exec_linkReset_of_resetTaken h ht
  have hself : (s.setPort p { s.port p with frame := none, score := score }).takeFault p =
      s.setPort p { s.port p with frame := none, score := score } := by
    unfold State.takeFault
    rw [State.port_setPort, if_pos rfl, if_neg (by simp [hreport])]
  have hspec := (s.setPort p { s.port p with frame := none, score := score }).resetLink_spec p h.seq
  rw [hself] at hspec
  have hanswer : resetAnswer (s.setPort p { s.port p with frame := none, score := score }) p h.seq =
      { status := .ok, seqEcho := h.seq, kindEcho := 0x03#8, replay := false,
        payload := .count ((List.finRange 16).filter (isSuspectOn s p)).length } := by
    rw [← allClients_eq_finRange]
    rfl
  rw [hanswer] at hspec
  generalize (s.setPort p { s.port p with frame := none, score := score }).resetLink p h.seq = t at he hspec
  obtain ⟨hport, hother, hclient, hrecords, hchannels, hgen, hclock, hreset⟩ := hspec
  rw [State.port_setPort, if_pos rfl] at hport
  have hclient (c : ClientId) : t.client c =
      if isSuspectOn s p c then { s.client c with state := .opened } else s.client c := hclient c
  refine ⟨t, he, hport, fun q hq => ?_, hclient, hrecords, hchannels, hgen, hclock, hreset,
    fun q => State.attention_congr q fun c => ?_, fun hlaw hup c => Bool.eq_false_iff.mpr fun hsus => ?_⟩
  · rw [hother q hq, State.port_setPort, if_neg (Ne.symm hq)]
  · rw [hclient]
    split
    · next hsus =>
      simp only [isSuspectOn, Bool.and_eq_true, beq_iff_eq] at hsus
      simp [hsus.1]
    · exact ⟨.rfl, rfl, rfl⟩
  · simp only [isSuspectOn, Bool.and_eq_true, beq_iff_eq] at hsus
    obtain ⟨hst, hpt⟩ := hsus
    obtain ⟨q, hq, -, hfaulted, -⟩ := clientsLawful_iff.mp hlaw c (by simp [hst])
    obtain rfl := Option.some.inj (hpt.symm.trans hq)
    exact absurd (hup.symm.trans (hfaulted hst)) (by decide)

end Sys2Proof.Machine
end

section
/-! PROOFS. The layout of an answer frame (R159, Tables 11-4 and 11-5) and the outgoing content of a frame (R139, R164). -/

namespace Sys2Proof.Machine

open Sys2Proof.Claims Sys2Proof.Safety

/-! ### Fields, most significant byte first -/

theorem extractByte_eq {n : Nat} (w : BitVec n) (k : Nat) : w.extractLsb' k 8 = BitVec.ofNat 8 (w.toNat / 2 ^ k) := by
  rw [← Nat.shiftRight_eq_div_pow]
  rfl

theorem bytes16_eq (w : BitVec 16) : bytes16 w = [BitVec.ofNat 8 (w.toNat / 2 ^ 8), BitVec.ofNat 8 w.toNat] := by
  simp [bytes16, extractByte_eq]

theorem bytes32_eq (w : BitVec 32) : bytes32 w = [BitVec.ofNat 8 (w.toNat / 2 ^ 24), BitVec.ofNat 8 (w.toNat / 2 ^ 16),
    BitVec.ofNat 8 (w.toNat / 2 ^ 8), BitVec.ofNat 8 w.toNat] := by
  simp [bytes32, extractByte_eq]

theorem bytes40_eq (w : BitVec 40) : bytes40 w = [BitVec.ofNat 8 (w.toNat / 2 ^ 32), BitVec.ofNat 8 (w.toNat / 2 ^ 24),
    BitVec.ofNat 8 (w.toNat / 2 ^ 16), BitVec.ofNat 8 (w.toNat / 2 ^ 8), BitVec.ofNat 8 w.toNat] := by
  simp [bytes40, extractByte_eq]

/-! ### The length of a payload -/

theorem length_flatMap_bytes16 (names : List Name) : (names.flatMap bytes16).length = 2 * names.length := by
  simp [List.length_flatMap, Nat.mul_comm]

theorem length_payloadBytes_page (more : Bool) (names : List Name) :
    (payloadBytes (.page more names)).length = 1 + 2 * names.length := by
  simp only [payloadBytes, List.length_cons, length_flatMap_bytes16]
  omega

/-- A payload is 58 bytes long at most, and so long only where it is the view of a resource with eight holders (Table 11-5). -/
theorem length_payloadBytes_le {pl : Payload} (h : Answerable pl) : (payloadBytes pl).length ≤ 58 ∧
    ((payloadBytes pl).length = 58 ↔ ∃ v, pl = .resourceView v ∧ v.holders.length = 8) := by
  have short {n : Nat} (hn : (payloadBytes pl).length = n) (hlt : n < 58) (hno : ∀ v, pl ≠ .resourceView v) :
      (payloadBytes pl).length ≤ 58 ∧
        ((payloadBytes pl).length = 58 ↔ ∃ v, pl = .resourceView v ∧ v.holders.length = 8) :=
    ⟨by omega, fun e => by omega, fun ⟨v, e, _⟩ => absurd e (hno v)⟩
  cases pl with
  | nothing | count | granted | pending | queued | late | renewed | slotView | fetched | valid | retired | probe =>
    exact short rfl (Nat.le_of_ble_eq_true rfl) nofun
  | page more names =>
    have hle : names.length ≤ 12 := h
    exact short (length_payloadBytes_page more names) (by omega) nofun
  | resourceView v =>
    have hle : v.holders.length ≤ 8 := h
    have hlength : (payloadBytes (.resourceView v)).length = 10 + 6 * v.holders.length := length_resourceViewBytes v
    refine ⟨by omega, fun e => ⟨v, rfl, by omega⟩, ?_⟩
    rintro ⟨w, hw, hv⟩
    cases hw
    omega

/-! ### The answer frame -/

section

variable (a : Answer)

theorem length_answerCovered : (answerCovered a).length = 5 + (payloadBytes a.payload).length := by
  simp only [answerCovered, List.length_append, List.length_cons, List.length_nil]

theorem length_answerBytes : (answerBytes a).length = answerLength a := by
  simp only [answerBytes, List.length_append, List.length_cons, List.length_nil, length_answerCovered, answerLength]
  omega

theorem answerLength_bounds (h : Answerable a.payload) : 6 ≤ answerLength a ∧ answerLength a ≤ 64 := by
  have hle := (length_payloadBytes_le h).1
  unfold answerLength
  omega

/-- A byte of an answer before its check byte (Table 11-4). -/
theorem getElem?_answerBytes {k : Nat} (hk : k + 1 < answerLength a) : (answerBytes a)[k]? = (answerCovered a)[k]? :=
  List.getElem?_append_left (by rw [length_answerCovered]; unfold answerLength at hk; omega)

theorem getElem?_answerBytes_payload {k : Nat} (hk : k < (payloadBytes a.payload).length) :
    (answerBytes a)[5 + k]? = (payloadBytes a.payload)[k]? := by
  rw [getElem?_answerBytes a (by unfold answerLength; omega), Nat.add_comm]
  rfl

/-- A replay changes the flags byte and no other byte before the check byte (R128, R159). -/
theorem getElem?_answerBytes_replay {k : Nat} (hk : k + 1 < answerLength a) (hne : k ≠ 4) (b c : Bool) :
    (answerBytes { a with replay := b })[k]? = (answerBytes { a with replay := c })[k]? := by
  rw [getElem?_answerBytes _ (show k + 1 < answerLength { a with replay := b } from hk),
    getElem?_answerBytes _ (show k + 1 < answerLength { a with replay := c } from hk)]
  match k with
  | 0 | 1 | 2 | 3 => rfl
  | 4 => exact absurd rfl hne
  | k + 5 => rfl

end

/-- Settles O6: the fields of Table 11-4 in their order, and the payload of each kind. -/
theorem answerFrameLayout : Obligations.AnswerFrameLayout := by
  refine ⟨fun a ha => ⟨length_answerBytes a, rfl, (answerLength_bounds a ha).1, (answerLength_bounds a ha).2, ?_, rfl, rfl,
    rfl, rfl, rfl, fun k hk => getElem?_answerBytes_payload a hk, ?_,
    fun k hne hk => getElem?_answerBytes_replay a hk hne true false⟩, rfl, fun n => rfl, fun i g l => rfl,
    fun i g ch d => ?_, fun i n => rfl, rfl, fun l => ⟨rfl, rfl⟩, fun c i => ⟨rfl, rfl⟩,
    fun names => ⟨rfl, rfl, fun more => ?_⟩, fun n => ⟨rfl, rfl⟩, bytes16_eq, bytes32_eq, bytes40_eq⟩
  · rw [← (length_payloadBytes_le ha).2]
    unfold answerLength
    omega
  · simp [answerBytes]
  · simp [payloadBytes, natByte]
  · rw [length_payloadBytes_page]
    omega

/-! ### The outgoing content of a frame -/

section

variable {s : State} {p : Port}

/-- R139: an answer is shifted out byte by byte, and then IDLE fill. -/
theorem byteAt_answer (a : Answer) (k : Nat) :
    (Outgoing.answer a).byteAt k = if k < answerLength a then (answerBytes a).getD k 0x00#8 else 0xF0#8 := by
  unfold Outgoing.byteAt
  dsimp only
  split
  · next h => rw [List.getD_eq_getElem?_getD, List.getD_eq_getElem?_getD,
      List.getElem?_eq_getElem (by rwa [length_answerBytes])]; rfl
  · next h => exact List.getD_eq_default _ _ (by rw [length_answerBytes]; omega)

/-- R138, R139: a frame that begins outside a reset, where none is in progress. -/
theorem exec_frameStart (hreset : s.inReset = false) (hf : (s.port p).frame = none) : exec (.frameStart p) s =
    .next (s.setPort p { s.port p with frame := some { outgoing := (s.port p).outgoing, received := noReception } }) :=
  congrArg Host.Outcome.next (if_neg (by simp [hreset, hf]))

/-- No command changes the outgoing content of a frame in progress. -/
theorem frame_kept {i : Instr} {t : State} {f : Frame} (he : exec i s = .next t) (hf : (s.port p).frame = some f) :
    (t.port p).frame = some f ∨ (t.port p).frame = none := by
  by_cases hstart : ∃ q, i = .frameStart q
  · obtain ⟨q, rfl⟩ := hstart
    obtain rfl | ⟨hnone, g, rfl⟩ := frameStart_cases he
    · exact .inl hf
    · rw [State.port_setPort, if_neg fun e => by subst e; rw [hf] at hnone; cases hnone]
      exact .inl hf
  · by_cases hreset : i = .chipReset
    · subst hreset
      cases he
      exact .inr (congrArg PortUnit.frame (port_reset p))
    · rw [← hf]
      exact (portsMoved_of_command (fun q e => hstart ⟨q, e⟩) hreset he).frame p

end

/-- Settles O9, from the content chosen at the start of a frame and what every command keeps of it. -/
theorem frameStartFixesTheContent : Obligations.FrameStartFixesTheContent := by
  refine ⟨fun s p hreset hf => ⟨_, exec_frameStart hreset hf, fun hl => ?_, fun hl => ⟨fun a ha => ?_, fun w hw => ?_,
    fun hempty => ?_⟩⟩, fun i s t p f he hf => frame_kept he hf, fun out k j hj => ?_,
    fun s p => exec_frameStart_inReset p, by decide, fun a ha => ?_⟩
  · have e : (s.port p).outgoing = .faultedFill := by unfold PortUnit.outgoing; rw [hl]
    rw [e]
    exact ⟨fun _ => rfl, fun _ => rfl⟩
  · have e : (s.port p).outgoing = .answer a := by unfold PortUnit.outgoing; rw [hl, ha]
    rw [e]
    exact ⟨byteAt_answer a, fun len => decide_eq_true_iff⟩
  · have e : (s.port p).outgoing = .workingFill := by unfold PortUnit.outgoing; rw [hl, hw]
    rw [e]
    exact ⟨fun _ => rfl, fun _ => rfl⟩
  · have e : (s.port p).outgoing = .idleFill := by unfold PortUnit.outgoing; rw [hl, hempty]
    rw [e]
    exact ⟨fun _ => rfl, fun _ => rfl⟩
  · unfold Outgoing.bitAt
    rw [Nat.mul_add_div (by decide), Nat.mul_add_mod, Nat.div_eq_of_lt hj, Nat.mod_eq_of_lt hj, Nat.add_zero]
  · obtain ⟨hlow, hhigh⟩ := answerLength_bounds a ha
    have hbyte : (Outgoing.answer a).byteAt 0 = BitVec.ofNat 8 (answerLength a) := rfl
    rw [hbyte, BitVec.toNat_ofNat, Nat.mod_eq_of_lt (by omega)]
    exact ⟨hlow, hhigh⟩

end Sys2Proof.Machine
end

section
/-! PROOFS. The frame of every request command and the command of every frame (R138, R140, R156 to R158). -/

namespace Sys2Proof.Machine

open Sys2Proof.Claims Sys2Proof.Safety

/-! ### Fields and bytes -/

theorem word16_bytes (w : BitVec 16) : word16 (w.extractLsb' 8 8) (w.extractLsb' 0 8) = w := by
  apply BitVec.eq_of_toNat_eq
  have hw := w.isLt
  simp only [word16, toNat_append_eq_add, BitVec.extractLsb'_toNat, Nat.shiftRight_eq_div_pow]
  omega

theorem word32_bytes (w : BitVec 32) :
    word32 (w.extractLsb' 24 8) (w.extractLsb' 16 8) (w.extractLsb' 8 8) (w.extractLsb' 0 8) = w := by
  apply BitVec.eq_of_toNat_eq
  have hw := w.isLt
  simp only [word32, toNat_append_eq_add, BitVec.extractLsb'_toNat, Nat.shiftRight_eq_div_pow]
  omega

theorem bytes16_word (a b : Byte) : bytes16 (word16 a b) = [a, b] := by
  have ha := a.isLt
  have hb := b.isLt
  simp only [bytes16, word16, List.cons.injEq, and_true]
  constructor <;> apply BitVec.eq_of_toNat_eq <;>
    simp only [toNat_append_eq_add, BitVec.extractLsb'_toNat, Nat.shiftRight_eq_div_pow] <;> omega

theorem bytes32_word (a b c d : Byte) : bytes32 (word32 a b c d) = [a, b, c, d] := by
  have ha := a.isLt
  have hb := b.isLt
  have hc := c.isLt
  have hd := d.isLt
  simp only [bytes32, word32, List.cons.injEq, and_true]
  refine ⟨?_, ?_, ?_, ?_⟩ <;> apply BitVec.eq_of_toNat_eq <;>
    simp only [toNat_append_eq_add, BitVec.extractLsb'_toNat, Nat.shiftRight_eq_div_pow] <;> omega

/-- Byte 1 of a frame carries the client and the flags (Table 11-1). -/
theorem headerOf_clientByte (h : Header) : headerOf (clientByte h) h.seq = h := by
  obtain ⟨client, flags, seq⟩ := h
  have hc := client.isLt
  have hf := flags.isLt
  simp only [headerOf, clientByte, Header.mk.injEq, and_true]
  constructor
  · apply Fin.ext
    simp only [toNat_append_eq_add, BitVec.extractLsb'_toNat, Nat.shiftRight_eq_div_pow, BitVec.toNat_ofNat, Fin.val_ofNat]
    omega
  · apply BitVec.eq_of_toNat_eq
    simp only [toNat_append_eq_add, BitVec.extractLsb'_toNat, Nat.shiftRight_eq_div_pow, BitVec.toNat_ofNat]
    omega

theorem clientByte_headerOf (client seq : Byte) : clientByte (headerOf client seq) = client := by
  apply BitVec.eq_of_toNat_eq
  have hc := client.isLt
  simp only [headerOf, clientByte, toNat_append_eq_add, BitVec.extractLsb'_toNat, Nat.shiftRight_eq_div_pow,
    BitVec.toNat_ofNat, Fin.val_ofNat]
  omega

/-- Bits 7-2 of OPEN's flags byte (Table 11-3). -/
theorem reserved_openFlags (admin takeover : Bool) (reserved : BitVec 6) :
    (openFlags admin takeover reserved).extractLsb' 2 6 = reserved := by
  apply BitVec.eq_of_toNat_eq
  have hr := reserved.isLt
  have ha := (BitVec.ofBool admin).isLt
  have ht := (BitVec.ofBool takeover).isLt
  simp only [openFlags, toNat_append_eq_add, BitVec.extractLsb'_toNat, Nat.shiftRight_eq_div_pow]
  omega

theorem openFlags_fields (f : Byte) : openFlags (flagsAdmin f) (flagsTakeover f) (f.extractLsb' 2 6) = f := by
  revert f
  decide

/-! ### Bodies and payloads -/

/-- The payload of a request is read back (Table 11-3). -/
theorem bodyOf_bodyPayload (b : Body) : bodyOf (bodyKind b) (bodyPayload b) = some b := by
  cases b with
  | acquire n mode limit =>
    refine (show _ = some (Body.acquire (word16 _ _) mode (word16 _ _)) from rfl).trans ?_
    rw [word16_bytes, word16_bytes]
  | check n g =>
    refine (show _ = some (Body.check (word16 _ _) (word32 _ _ _ _)) from rfl).trans ?_
    rw [word16_bytes, word32_bytes]
  | query n =>
    refine (show _ = some (Body.query (word16 _ _)) from rfl).trans ?_
    rw [word16_bytes]
  | directory n =>
    refine (show _ = some (Body.directory (word16 _ _)) from rfl).trans ?_
    rw [word16_bytes]
  | define d =>
    refine (show _ = some (Body.define ⟨word16 _ _, d.rank, d.shareLimit, word16 _ _, word16 _ _, d.gatePresent,
      d.gateChannel, word16 _ _⟩) from rfl).trans ?_
    rw [word16_bytes, word16_bytes, word16_bytes, word16_bytes]
  | amend a =>
    refine (show _ = some (Body.amend ⟨word16 _ _, word16 _ _, word16 _ _, a.shareLimit, a.rank⟩) from rfl).trans ?_
    rw [word16_bytes, word16_bytes, word16_bytes]
  | retire n mode =>
    refine (show _ = some (Body.retire (word16 _ _) mode) from rfl).trans ?_
    rw [word16_bytes]
  | seed value =>
    refine (show _ = some (Body.seed (word32 _ _ _ _)) from rfl).trans ?_
    rw [word32_bytes]
  | openClient | close | release | cancel | renew | renewAll | fetch | slotRead => rfl

/-- A request read from a payload has that payload. -/
theorem bodyPayload_of_bodyOf {k : Kind} {payload : List Byte} {body : Body} (h : bodyOf k payload = some body) :
    bodyKind body = k ∧ bodyPayload body = payload := by
  cases k with
  | openClient => match payload, h with | [_, _, _], h => cases h; exact ⟨rfl, rfl⟩
  | close => match payload, h with | [], h => cases h; exact ⟨rfl, rfl⟩
  | acquire => match payload, h with | [_, _, _, _, _], h => cases h; exact ⟨rfl, by simp [bodyPayload, bytes16_word]⟩
  | release => match payload, h with | [_], h => cases h; exact ⟨rfl, rfl⟩
  | cancel => match payload, h with | [_], h => cases h; exact ⟨rfl, rfl⟩
  | renew => match payload, h with | [_], h => cases h; exact ⟨rfl, rfl⟩
  | renewAll => match payload, h with | [], h => cases h; exact ⟨rfl, rfl⟩
  | fetch => match payload, h with | [], h => cases h; exact ⟨rfl, rfl⟩
  | slotRead => match payload, h with | [_], h => cases h; exact ⟨rfl, rfl⟩
  | check =>
    match payload, h with
    | [_, _, _, _, _, _], h => cases h; exact ⟨rfl, by simp [bodyPayload, bytes16_word, bytes32_word]⟩
  | query => match payload, h with | [_, _], h => cases h; exact ⟨rfl, bytes16_word _ _⟩
  | directory => match payload, h with | [_, _], h => cases h; exact ⟨rfl, bytes16_word _ _⟩
  | define =>
    match payload, h with
    | [_, _, _, _, _, _, _, _, _, _, _, _], h => cases h; exact ⟨rfl, by simp [bodyPayload, bytes16_word]⟩
  | amend =>
    match payload, h with
    | [_, _, _, _, _, _, _, _], h => cases h; exact ⟨rfl, by simp [bodyPayload, bytes16_word]⟩
  | retire => match payload, h with | [_, _, _], h => cases h; exact ⟨rfl, by simp [bodyPayload, bytes16_word]⟩
  | seed => match payload, h with | [_, _, _, _], h => cases h; exact ⟨rfl, bytes32_word _ _ _ _⟩
  | poll | probe | linkReset => cases h

section

variable {p : Port} {t : Timing} {h : Header} {b : Body}

theorem instrRequest_commandOf_eq : instrRequest (commandOf p t h b) = some ⟨h, b⟩ := by
  cases b with
  | openClient branch priority flags =>
    have hflags := openFlags_fields flags
    simp only [commandOf]
    split
    · next ht => rw [ht] at hflags; simp [instrRequest, hflags]
    · next ht => rw [Bool.eq_false_iff.mpr ht] at hflags; simp [instrRequest, hflags]
  | retire n mode =>
    simp only [commandOf]
    split
    · next hm => subst hm; rfl
    · rfl
  | _ => rfl

theorem wf_commandOf : (commandOf p t h b).wf = true := by
  cases b with
  | openClient => simp only [commandOf]; split <;> rfl
  | retire n mode =>
    simp only [commandOf]
    split
    · rfl
    · next hm => simpa [Instr.wf] using hm
  | _ => rfl

theorem portOf_commandOf : portOf (commandOf p t h b) = some p := by
  cases b with
  | openClient | retire => simp only [commandOf]; split <;> rfl
  | _ => rfl

/-- A well-formed request command is the command of its request. -/
theorem commandOf_instrRequest {i : Instr} {r : Request} (hw : i.wf = true) (hp : instrPort i = some (p, t))
    (hr : instrRequest i = some r) : commandOf p t r.header r.body = i := by
  cases i with
  | openClient p' h' branch priority admin reserved t' =>
    cases hp; cases hr
    simp [commandOf, flagsTakeover_openFlags, flagsAdmin_openFlags, reserved_openFlags]
  | takeover p' h' branch priority admin reserved t' =>
    cases hp; cases hr
    simp [commandOf, flagsTakeover_openFlags, flagsAdmin_openFlags, reserved_openFlags]
  | retireGraceful p' h' n mode t' =>
    cases hp; cases hr
    exact if_neg (by simpa [Instr.wf] using hw)
  | frameStart | badFrame | unknownKind | poll | probe | linkReset | answerPlaced | portFault | waitDeadline | expiry
  | revocation | settleEnd | chipReset | leaseClockTick | unclockedFrame | endOfReset => cases hr
  | _ => cases hp; cases hr; rfl

theorem encodeFrame_of_instrRequest {i : Instr} {r : Request} (hr : instrRequest i = some r) :
    encodeFrame i = some (requestBytes r) := by
  unfold encodeFrame
  split
  iterate 4 cases hr
  rw [hr]
  rfl

end

/-! ### The command of a good frame -/

section

variable {p : Port} {t : Timing} {client seq kind : Byte} {payload : List Byte}

/-- The command of a good client-level frame (R157). -/
theorem decodeGood_body {b : Body} :
    decodeGood p t client seq (kindCode (bodyKind b)) (bodyPayload b) = commandOf p t (headerOf client seq) b := by
  have hk : kindOfCode (kindCode (bodyKind b)) = some (bodyKind b) := kindOfCode_eq_some_iff.mpr rfl
  have hb := bodyOf_bodyPayload b
  unfold decodeGood
  rw [hk]
  cases b <;> simp only [bodyKind] at hb ⊢ <;> rw [hb]

theorem decodeGood_poll : decodeGood p t client seq (kindCode .poll) payload = .poll p ⟨headerOf client seq, payload⟩ := rfl

theorem decodeGood_probe : decodeGood p t client seq (kindCode .probe) [] = .probe p (headerOf client seq) := rfl

theorem decodeGood_linkReset : decodeGood p t client seq (kindCode .linkReset) [] = .linkReset p (headerOf client seq) := rfl

/-- R157: the form check turns a frame away where its kind is unknown or requires another payload length. -/
theorem malformed_iff {n : Nat} (hn : n ≤ 59) : malformed kind n = true ↔
    ∀ k, kindOfCode kind = some k → ∃ m, kindPayloadLength k = some m ∧ n ≠ m := by
  unfold malformed
  cases hk : kindOfCode kind with
  | none => simp
  | some k =>
    unfold formRight
    cases hm : kindPayloadLength k <;> simp [hn, hm]

theorem decodeGood_of_malformed (hlen : payload.length ≤ 59) (h : malformed kind payload.length = true) :
    decodeGood p t client seq kind payload = .unknownKind p (headerOf client seq) kind payload :=
  (decodeGood_eq_unknownKind_iff p t client seq kind payload).mpr ((malformed_iff hlen).mp h)

/-- What the command of a good frame is: well-formed, of its port, and with the bytes of that frame. -/
structure DecodedFrom (p : Port) (bytes : List Byte) (i : Instr) : Prop where
  wf : i.wf = true
  port : portOf i = some p
  bytes : encodeFrame i = some bytes

theorem headedBytes_headerOf : headedBytes (headerOf client seq) kind payload = frameBytes client seq kind payload := by
  unfold headedBytes
  rw [clientByte_headerOf]
  rfl

theorem decodedFrom_commandOf {b : Body} : DecodedFrom p (frameBytes client seq (kindCode (bodyKind b)) (bodyPayload b))
    (commandOf p t (headerOf client seq) b) where
  wf := wf_commandOf
  port := portOf_commandOf
  bytes := by rw [encodeFrame_of_instrRequest instrRequest_commandOf_eq, ← headedBytes_headerOf]; rfl

/-- The command of a good frame is well-formed, of its port, and has the bytes of the frame. -/
theorem decodedFrom_decodeGood (hlen : payload.length ≤ 59) :
    DecodedFrom p (frameBytes client seq kind payload) (decodeGood p t client seq kind payload) := by
  by_cases hform : malformed kind payload.length = true
  · rw [decodeGood_of_malformed hlen hform]
    exact ⟨by simp [Instr.wf, hlen, hform], rfl, congrArg some headedBytes_headerOf⟩
  obtain ⟨k, hk, hright⟩ : ∃ k, kindOfCode kind = some k ∧ ∀ m, kindPayloadLength k = some m → payload.length = m := by
    simpa [malformed_iff hlen] using hform
  obtain rfl := kindOfCode_eq_some_iff.mp hk
  have hempty (h : kindPayloadLength k = some 0) : payload = [] := List.length_eq_zero_iff.mp (hright 0 h)
  by_cases hpoll : k = .poll
  · subst hpoll
    exact ⟨decide_eq_true hlen, rfl, congrArg some headedBytes_headerOf⟩
  by_cases hprobe : k = .probe
  · subst hprobe
    obtain rfl := hempty rfl
    exact ⟨rfl, rfl, congrArg some headedBytes_headerOf⟩
  by_cases hreset : k = .linkReset
  · subst hreset
    obtain rfl := hempty rfl
    exact ⟨rfl, rfl, congrArg some headedBytes_headerOf⟩
  have hfixed : kindPayloadLength k = some payload.length := by
    cases hm : kindPayloadLength k with
    | none =>
      cases k with
      | poll => exact absurd rfl hpoll
      | _ => cases hm
    | some m => rw [hright m hm]
  obtain ⟨body, hbody⟩ := exists_bodyOf hprobe hreset hfixed
  obtain ⟨rfl, rfl⟩ := bodyPayload_of_bodyOf hbody
  rw [decodeGood_body]
  exact decodedFrom_commandOf

/-! ### The bits of a frame -/

/-- A whole frame of a payload of at most 59 bytes is good, and its command is that of its bytes (R138, R140). -/
theorem decodeFrame_frameBytes (hlen : payload.length ≤ 59) :
    (receive (bitsOf (frameBytes client seq kind payload))).good = true ∧
      decodeFrame p t (bitsOf (frameBytes client seq kind payload)) = decodeGood p t client seq kind payload := by
  have hbytes : frameBytes client seq kind payload = BitVec.ofNat 8 (payload.length + 5) ::
      client :: seq :: kind :: (payload ++ [crc8 (coveredBytes client seq kind payload)]) := rfl
  have hcount : (BitVec.ofNat 8 (payload.length + 5)).toNat = payload.length + 5 := by
    rw [BitVec.toNat_ofNat]
    omega
  have hgood : (receive (bitsOf (frameBytes client seq kind payload))).good = true := by
    have hiff := good_receive_iff (BitVec.ofNat 8 (payload.length + 5))
      (client :: seq :: kind :: (payload ++ [crc8 (coveredBytes client seq kind payload)])) (extra := []) (by decide)
    rw [← hbytes, List.append_nil] at hiff
    rw [hiff, hcount]
    exact ⟨rfl, by omega, by omega, length_frameBytes _ _ _ _, (crc8_concat_eq_zero_iff _ _).mpr rfl⟩
  refine ⟨hgood, ?_⟩
  have hkept : (receive (bitsOf (frameBytes client seq kind payload))).bytes = frameBytes client seq kind payload := by
    rw [receive_bitsOf]
    exact List.take_of_length_le (by rw [length_frameBytes]; unfold keptBytes; omega)
  unfold decodeFrame
  rw [if_neg (by rw [hbytes]; exact List.cons_ne_nil _ _), if_pos hgood, hkept, hbytes]
  dsimp only
  rw [List.dropLast_concat]

theorem frameBits_of_encodeFrame {i : Instr} {bytes : List Byte} (h : encodeFrame i = some bytes) :
    frameBits i = some (bitsOf bytes) := by
  unfold frameBits
  split
  · cases h
  · cases h
  · rw [h]; rfl

/-- Bits that are good are those of a whole frame (R140). -/
theorem exists_frame_of_good {bits : List Bool} (h : (receive bits).good = true) :
    ∃ client seq kind payload, payload.length ≤ 59 ∧ bits = bitsOf (frameBytes client seq kind payload) := by
  obtain ⟨bytes, extra, hextra, rfl⟩ := exists_bytes_extra bits
  cases bytes with
  | nil => cases (good_receive_nil hextra).symm.trans h
  | cons len rest =>
    obtain ⟨rfl, hmin, hmax, hlen, hcrc⟩ := (good_receive_iff len rest hextra).mp h
    obtain ⟨len', client, seq, kind, rest', e⟩ := exists_frame_header (hlen ▸ hmin)
    cases e
    have hne : rest' ≠ [] := by
      rintro rfl
      simp at hlen
      omega
    obtain ⟨payload, check, rfl⟩ : ∃ payload check, rest' = payload ++ [check] :=
      ⟨rest'.dropLast, rest'.getLast hne, (List.dropLast_append_getLast hne).symm⟩
    have hcount : payload.length + 5 = len.toNat := by simpa using hlen
    have hlength : len = BitVec.ofNat 8 (payload.length + 5) := by
      rw [hcount]
      exact (BitVec.ofNat_toNat 8 len ▸ BitVec.setWidth_eq len).symm
    have hcheck : check = crc8 (coveredBytes client seq kind payload) := by
      rw [hlength] at hcrc
      exact (crc8_concat_eq_zero_iff (coveredBytes client seq kind payload) check).mp hcrc
    refine ⟨client, seq, kind, payload, by omega, ?_⟩
    rw [List.append_nil, hcheck, hlength]
    rfl

end

/-! ### The commands that carry a request -/

/-- A command that ends a good frame on a port: its bytes are a frame whose command it is (Tables 11-1 to 11-3). -/
theorem exists_frame_of_encode {i : Instr} {p : Port} {t : Timing} {bytes : List Byte} (hw : i.wf = true)
    (hp : instrPort i = some (p, t)) (he : encodeFrame i = some bytes) :
    ∃ h kind payload, payload.length ≤ 59 ∧ bytes = headedBytes h kind payload ∧
      decodeGood p t (clientByte h) h.seq kind payload = i ∧ goodFrame i = some (p, payload.length + 5) := by
  cases hr : instrRequest i with
  | some r =>
    obtain rfl := Option.some.inj ((encodeFrame_of_instrRequest hr).symm.trans he)
    have hle := Laws.FrameLength.length_bodyPayload r.body
    refine ⟨r.header, _, _, by omega, rfl, ?_, ?_⟩
    · rw [decodeGood_body, headerOf_clientByte, commandOf_instrRequest hw hp hr]
    · have hc : clientRequest i = some (p, r, t) := by
        unfold clientRequest
        rw [hp, hr]
      unfold goodFrame
      split
      iterate 4 cases hr
      rw [hc]
      rfl
  | none =>
    cases i with
    | unknownKind q h kind payload =>
      cases hp; cases he
      simp only [Instr.wf, Bool.and_eq_true, decide_eq_true_eq] at hw
      obtain ⟨hlen, hform⟩ := hw
      exact ⟨h, kind, payload, hlen, rfl, by rw [decodeGood_of_malformed hlen hform, headerOf_clientByte], rfl⟩
    | poll q f =>
      cases hp; cases he
      have hlen : f.padding.length ≤ 59 := of_decide_eq_true hw
      exact ⟨f.header, _, f.padding, hlen, rfl, by rw [decodeGood_poll, headerOf_clientByte], rfl⟩
    | probe q h =>
      cases hp; cases he
      exact ⟨h, _, [], by decide, rfl, by rw [decodeGood_probe, headerOf_clientByte], rfl⟩
    | linkReset q h =>
      cases hp; cases he
      exact ⟨h, _, [], by decide, rfl, by rw [decodeGood_linkReset, headerOf_clientByte], rfl⟩
    | frameStart | badFrame | answerPlaced | portFault | waitDeadline | expiry | revocation | settleEnd | chipReset
    | leaseClockTick | unclockedFrame | endOfReset => cases he
    | _ => cases hr

/-- Settles O3: a command's frame is that of its header, kind and payload, and any bits are none, a bad frame's, or such a
frame's. -/
theorem decodeReadsEncodedFrame : Obligations.DecodeReadsEncodedFrame := by
  refine ⟨fun i p t bytes hw hp he => ?_, fun p t bits => ?_⟩
  · obtain ⟨h, kind, payload, hlen, rfl, hdecode, hgood⟩ := exists_frame_of_encode hw hp he
    obtain ⟨hreceived, hframe⟩ := decodeFrame_frameBytes (p := p) (t := t) (client := clientByte h) (seq := h.seq)
      (kind := kind) hlen
    rw [length_headedBytes]
    exact ⟨hgood, by omega, hreceived, hframe.trans hdecode⟩
  · by_cases hnil : bits = []
    · subst hnil
      exact ⟨rfl, rfl, rfl⟩
    by_cases hgood : (receive bits).good = true
    · obtain ⟨client, seq, kind, payload, hlen, rfl⟩ := exists_frame_of_good hgood
      rw [(decodeFrame_frameBytes hlen).2]
      obtain ⟨hw, hport, hbytes⟩ := decodedFrom_decodeGood (p := p) (t := t) (client := client) (seq := seq) (kind := kind)
        hlen
      exact ⟨hw, hport, frameBits_of_encodeFrame hbytes⟩
    · have hbad : decodeFrame p t bits = .badFrame ⟨p, bits⟩ := by
        unfold decodeFrame
        rw [if_neg hnil, if_neg hgood]
      rw [hbad]
      exact ⟨by simp [Instr.wf, hnil, hgood], rfl, rfl⟩

end Sys2Proof.Machine
end

section
/-! PROOFS. A request handed over, what stands before its screening, and the placing of its answer (R135, R145). -/

namespace Sys2Proof.Machine

open Sys2Proof.Claims Sys2Proof.Safety

section

variable {s : State} {p q : Port} {c : ClientId} {r : Request} {k : Passage}

/-! ### The end of a frame, whatever is then taken -/

/-- Whether the request of a good frame is taken does not depend on how it is taken (R143). -/
theorem State.goodFrame_uniform (s : State) (p : Port) (bytes : List Byte) :
    (∃ v, ∀ taken, s.goodFrame p bytes taken = v) ∨ ∃ v, ∀ taken, s.goodFrame p bytes taken = taken v := by
  cases hf : (s.port p).frame with
  | none => exact .inl ⟨_, fun taken => s.goodFrame_ignored p bytes taken hf⟩
  | some f =>
    cases hl : (s.port p).link with
    | faulted => exact .inl ⟨_, fun taken => s.goodFrame_faulted p bytes taken f hf hl⟩
    | up =>
      cases ha : (s.port p).admits f.outgoing bytes.length with
      | false => exact .inl ⟨_, fun taken => s.goodFrame_overrun p bytes taken f hf hl ha⟩
      | true => exact .inr ⟨_, fun taken => s.goodFrame_admitted p bytes taken f hf hl ha⟩

theorem State.setResponse_setResponse (s : State) (p : Port) (x y : ResponseSlot) :
    (s.setResponse p x).setResponse p y = s.setResponse p y := by
  simp [State.setResponse, State.setPort, State.port]

theorem exec_answerPlaced_of_done {a : Answer} (h : (s.port p).slot = .working (.done a)) :
    exec (.answerPlaced p) s = .next (s.setResponse p (.ready a)) := by
  show execAnswerPlaced p s = _
  unfold execAnswerPlaced
  simp only [h]

/-- Carried out at its frame's end or when its answer is placed, a request leaves the same state (log entry 1). -/
theorem exec_answerPlaced_take (u : State) (p : Port) (r : Request) :
    exec (.answerPlaced p) (u.take p r .later) = exec (.answerPlaced p) (u.take p r .atFrameEnd) := by
  have hhanded : ((u.take p r .later).port p).slot = .working (.handed r) := by
    show ((u.setResponse p (.working (.handed r))).port p).slot = _
    rw [State.port_setResponse, if_pos rfl]
  have htake : u.take p r .atFrameEnd = (u.take p r .later).process p r := rfl
  generalize u.take p r .later = v at *
  have hdone : ((v.process p r).port p).slot = .working (.done (v.carryHanded p r).2) := by
    unfold State.process
    rw [State.port_setResponse, if_pos rfl]
  rw [htake, exec_answerPlaced_of_done hdone, exec_answerPlaced_of_handed hhanded]
  unfold State.process
  rw [State.setResponse_setResponse, State.setResponse, State.carryHanded_port (not_holdsScreened_of_handed hhanded)]

/-! ### What stands before a screening -/

/-- Ports that hold no screened OPEN or CLOSE of the client are left alone. -/
theorem foldl_carryEarlierOn_self {l : List Port}
    (h : ∀ q ∈ l, ∀ r k, (s.port q).slot = .working (.screened r k) → r.header.client = c → k.rebinds r = false) :
    l.foldl (fun t q => t.carryEarlierOn c q) s = s := by
  induction l with
  | nil => rfl
  | cons q l ih =>
    have hstep : s.carryEarlierOn c q = s := by
      obtain e | ⟨r, k, hslot, rfl, hk, -⟩ := s.carryEarlierOn_cases c q
      · exact e
      · rw [h q List.mem_cons_self r k hslot rfl] at hk
        cases hk
    rw [List.foldl_cons, hstep]
    exact ih fun q' hq' => h q' (List.mem_cons_of_mem _ hq')

theorem Passage.rebinds_of (h : k = .plainOpen ∨ bodyKind r.body = .close) : k.rebinds r = true := by
  cases k with
  | plainOpen => rfl
  | fresh =>
    obtain h | h := h
    · cases h
    · unfold Passage.rebinds
      rw [h]
      rfl

/-- Before the screening of a request for a client, its one screened OPEN or CLOSE is carried out, and nothing else (R135). -/
theorem State.carryEarlier_eq (hs : ScreenedLawful s) (hslot : (s.port q).slot = .working (.screened r k))
    (hk : k.rebinds r = true) : s.carryEarlier r.header.client =
      (carryScreened k q r s).1.setResponse q (.working (.done (carryScreened k q r s).2)) := by
  obtain ⟨hmatch, -⟩ := screenedLawful_iff.mp hs
  obtain ⟨hscreen, hone⟩ := hmatch q r k hslot
  obtain ⟨pre, post, hsplit⟩ := List.append_of_mem (show q ∈ allPorts by rw [allPorts_eq_finRange]; exact List.mem_finRange q)
  have hnodup : (pre ++ q :: post).Nodup := hsplit ▸ (by decide : allPorts.Nodup)
  obtain ⟨-, hpost, hdisjoint⟩ := List.nodup_append.mp hnodup
  have hcarried : s.carryEarlierOn r.header.client q =
      (carryScreened k q r s).1.setResponse q (.working (.done (carryScreened k q r s).2)) := by
    unfold State.carryEarlierOn
    simp only [hslot, hk, hscreen, and_self, if_true]
  have hports (q' : Port) (hne : q' ≠ q) : ((s.carryEarlierOn r.header.client q).port q') = s.port q' := by
    rw [hcarried, State.port_setResponse, if_neg (Ne.symm hne)]
    exact congrArg (fun v : Vector PortUnit 8 => v[q']) (carryScreened_tablesOnly s k q r).ports
  have hfirst : pre.foldl (fun t q => t.carryEarlierOn r.header.client q) s = s :=
    foldl_carryEarlierOn_self fun q' hq' r' k' hslot' hc =>
      absurd (hone q' r' k' hslot' hc) (hdisjoint q' hq' q List.mem_cons_self)
  have hrest : post.foldl (fun t q => t.carryEarlierOn r.header.client q) (s.carryEarlierOn r.header.client q) =
      s.carryEarlierOn r.header.client q := by
    refine foldl_carryEarlierOn_self fun q' hq' r' k' hslot' hc => ?_
    have hne : q' ≠ q := fun e => (List.nodup_cons.mp hpost).1 (e ▸ hq')
    rw [hports q' hne] at hslot'
    exact absurd (hone q' r' k' hslot' hc) hne
  unfold State.carryEarlier
  rw [hsplit, List.foldl_append, hfirst, List.foldl_cons, hrest, hcarried]

end

/-- Settles O16, clause by clause: handing over, placing, both timings, and what stands before a screening. -/
theorem requestHandedOverAndAnswerPlaced : Obligations.RequestHandedOverAndAnswerPlaced := by
  refine ⟨fun i s p r hi htaken => ?_, fun s p a ha => exec_answerPlaced_of_done ha, fun s p hw => ?_,
    fun i j s t u p r hi hj ht hu => ?_, fun s c h => ?_, fun s t q r k hs hslot hk he => ?_⟩
  · rw [exec_of_clientRequest hi, State.requestFrame, State.goodFrame_of_taken (by rwa [length_requestBytes]),
      State.take_later]
    rfl
  · show execAnswerPlaced p s = _
    unfold execAnswerPlaced
    cases hslot : (s.port p).slot with
    | working w => exact absurd hslot (hw w)
    | empty | ready => rfl
  · obtain rfl := Host.Outcome.next.inj ((exec_of_clientRequest hi s).symm.trans ht)
    obtain rfl := Host.Outcome.next.inj ((exec_of_clientRequest hj s).symm.trans hu)
    unfold State.requestFrame
    obtain ⟨v, hv⟩ | ⟨v, hv⟩ := s.goodFrame_uniform p (requestBytes r)
    · rw [hv, hv]
    · rw [hv, hv]
      exact exec_answerPlaced_take v p r
  · exact foldl_carryEarlierOn_self fun q _ r k hslot hc => h q (r, k) (screenedOn_eq_some.mpr hslot) hc
  · rw [State.carryEarlier_eq hs hslot (Passage.rebinds_of hk)]
    obtain rfl := Host.Outcome.next.inj ((exec_answerPlaced_of_screened hslot).symm.trans he)
    refine ⟨(carryScreened k q r s).2, ?_, ?_⟩
    · rw [State.port_setResponse, if_pos rfl]
    · rw [← State.setResponse, State.setResponse_setResponse]

end Sys2Proof.Machine
end

section
/-! PROOFS. One grant (R46), and the grant pass over a wait queue (R45, R48, R107). -/

namespace Sys2Proof.Machine

open Sys2Proof.Claims Sys2Proof.Safety

/-! ### One grant -/

/-- The record after some of its waiters were granted with these generations (R46, step 2). -/
def Record.afterGrants (r : Record) (gs : List (Waiter × Gen)) (rest : List Waiter) : Record :=
  { r with waiters := rest, holders := r.holders ++ gs.map fun x => ⟨x.1.client, x.1.slot, x.1.mode, x.2⟩ }

/-- What the slot of a waiter becomes that is granted with a generation (R46, R91). -/
def Slot.OfGrant (s : State) (n : Name) (r : Record) (x : Waiter × Gen) (y : Slot) : Prop :=
  (Settling s r → y = .gating n x.1.mode x.2) ∧ (¬ Settling s r → y = .held n x.1.mode x.2 (leaseEnd s r))

section

variable {s : State} {own : Option ClientId} {n : Name} {w : Waiter} {rest : List Waiter} {r : Record} {g : ChannelId}

theorem State.find_grantEntry (hr : s.find n = some r) (k : Name) :
    (s.grantEntry n w rest).find k = if k = n then some (r.afterGrants [(w, s.drawn)] rest) else s.find k := by
  unfold State.grantEntry
  rw [State.find_updateRecord]
  · have hsame (k : Name) : ({ s with generation := s.drawn } : State).find k = s.find k := rfl
    rw [hsame, hsame, hr]
    rfl
  · exact fun _ => rfl

theorem State.records_grant : (s.grant own n w rest).records = (s.grantEntry n w rest).records := by
  obtain ⟨u, rfl | rfl, e | ⟨g, b, e⟩⟩ := s.grant_cases own n w rest <;> rw [e] <;> rfl

theorem State.find_of_records {t : State} (h : t.records = s.records) (k : Name) : t.find k = s.find k := by
  unfold State.find
  rw [h]

/-- The records after a grant. -/
theorem State.find_grant (hr : s.find n = some r) (k : Name) :
    (s.grant own n w rest).find k = if k = n then some (r.afterGrants [(w, s.drawn)] rest) else s.find k := by
  rw [State.find_of_records State.records_grant, State.find_grantEntry hr]

theorem State.gateOf_of_find {s : State} {n : Name} {r : Record} (hr : s.find n = some r) : s.gateOf n = r.gate := by
  unfold State.gateOf
  rw [hr]
  rfl

theorem State.gateOf_grantEntry (hr : s.find n = some r) : (s.grantEntry n w rest).gateOf n = r.gate := by
  have hfound : (s.grantEntry n w rest).find n = some (r.afterGrants [(w, s.drawn)] rest) := by
    rw [State.find_grantEntry hr, if_pos rfl]
  exact State.gateOf_of_find (r := r.afterGrants [(w, s.drawn)] rest) hfound

theorem State.lease_grantEntry (hr : s.find n = some r) :
    (s.grantEntry n w rest).after ((s.grantEntry n w rest).termMs n) = leaseEnd s r := by
  have hfound : (s.grantEntry n w rest).find n = some (r.afterGrants [(w, s.drawn)] rest) := by
    rw [State.find_grantEntry hr, if_pos rfl]
  exact State.newLease_of_find (r := r.afterGrants [(w, s.drawn)] rest) hfound

theorem not_settling_of_gate (hg : r.gate = some g) (h : ¬ Settling s r) : (s.channel g).isSettling = false :=
  Bool.eq_false_iff.mpr fun hs => h ⟨g, hg, hs⟩

/-- The slot of a granted waiter. -/
theorem State.grantedSlot_ofGrant (hr : s.find n = some r) :
    Slot.OfGrant s n r (w, s.drawn) (s.grantedSlot n w rest) := by
  unfold State.grantedSlot
  dsimp only
  rw [State.gateOf_grantEntry hr, State.lease_grantEntry hr]
  refine ⟨fun h => ?_, fun h => ?_⟩
  · obtain ⟨g, hg, hs⟩ := h
    rw [hg]
    exact if_pos hs
  · cases hg : r.gate with
    | none => rfl
    | some g => exact if_neg (Bool.eq_false_iff.mp (not_settling_of_gate hg h))

/-- A grant while the resource's channel is SETTLING (R91). -/
theorem State.grant_of_settling (hr : s.find n = some r) (h : Settling s r) : s.grant own n w rest =
    (s.grantEntry n w rest).setSlot w.client w.slot (.gating n w.mode s.drawn) := by
  obtain ⟨g, hg, hs⟩ := h
  unfold State.grant
  dsimp only
  rw [State.gateOf_grantEntry hr, hg]
  exact if_pos hs

/-- A grant of a resource without a channel. -/
theorem State.grant_of_ungated (hr : s.find n = some r) (hg : r.gate = none) : s.grant own n w rest =
    (s.grantEntry n w rest).startLease own n w s.drawn := by
  unfold State.grant
  dsimp only
  rw [State.gateOf_grantEntry hr, hg]

/-- A grant of a resource whose channel does not settle: the channel joins the branch (R91). -/
theorem State.grant_of_gated (hr : s.find n = some r) (hg : r.gate = some g) (h : ¬ Settling s r) : s.grant own n w rest =
    ((s.grantEntry n w rest).startLease own n w s.drawn).connect g (s.client w.client).branch := by
  unfold State.grant
  dsimp only
  rw [State.gateOf_grantEntry hr, hg]
  exact if_neg (Bool.eq_false_iff.mp (not_settling_of_gate hg h))

theorem State.channels_startLease (s : State) (own : Option ClientId) (n : Name) (w : Waiter) (x : Gen) :
    (s.startLease own n w x).channels = s.channels := by
  unfold State.startLease
  dsimp only
  split <;> rfl

theorem State.queue_startLease (s : State) (own : Option ClientId) (n : Name) (w : Waiter) (x : Gen) (c : ClientId) :
    ((s.startLease own n w x).client c).queue = if w.client = c ∧ own ≠ some c
      then postEntry w.slot .ordinary (s.client c).queue else (s.client c).queue := by
  unfold State.startLease
  dsimp only
  by_cases ho : own = some w.client
  · rw [if_pos ho, State.queue_setSlot, if_neg fun h => h.2 (h.1 ▸ ho)]
  · rw [if_neg ho, State.post, State.client_setQueue]
    by_cases hc : w.client = c
    · subst hc
      rw [if_pos rfl, if_pos ⟨rfl, ho⟩, State.queue_setSlot]
    · rw [if_neg hc, if_neg fun h => hc h.1, State.queue_setSlot]

theorem State.queue_grant_lease (hr : s.find n = some r) (hs : ¬ Settling s r) (c : ClientId) :
    ((s.grant own n w rest).client c).queue = (((s.grantEntry n w rest).startLease own n w s.drawn).client c).queue := by
  cases hg : r.gate with
  | none => rw [State.grant_of_ungated hr hg]
  | some g => rw [State.grant_of_gated hr hg hs]; rfl

/-- The change queues that stand at a grant (R48, R107). -/
theorem State.queue_grant_kept (hr : s.find n = some r) {c : ClientId} (h : Settling s r ∨ own = some c ∨ w.client ≠ c) :
    ((s.grant own n w rest).client c).queue = (s.client c).queue := by
  by_cases hs : Settling s r
  · rw [State.grant_of_settling hr hs, State.queue_setSlot]
    rfl
  · rw [State.queue_grant_lease hr hs, State.queue_startLease, if_neg fun hq => ?_]
    · rfl
    · exact (h.resolve_left hs).elim hq.2 fun k => k hq.1

/-- The grant of a lease is posted ordinary, unless it is in the client's own ACQUIRE (R48, R107). -/
theorem State.queue_grant_posted (hr : s.find n = some r) (hs : ¬ Settling s r) (ho : own ≠ some w.client) :
    ((s.grant own n w rest).client w.client).queue = postEntry w.slot .ordinary (s.client w.client).queue := by
  rw [State.queue_grant_lease hr hs, State.queue_startLease, if_pos ⟨rfl, ho⟩]
  rfl

/-- A channel that is not the resource's, or SETTLING, stands at a grant. -/
theorem State.channel_grant_of_other (hr : s.find n = some r) {h : ChannelId} (hh : r.gate ≠ some h ∨ Settling s r) :
    (s.grant own n w rest).channel h = s.channel h := by
  by_cases hs : Settling s r
  · rw [State.grant_of_settling hr hs]
    rfl
  · cases hg : r.gate with
    | none =>
      rw [State.grant_of_ungated hr hg]
      exact congrArg (fun v : Vector Channel 16 => v[h]) (State.channels_startLease ..)
    | some g =>
      have hne : g ≠ h := fun e => (hh.resolve_right hs) (e ▸ hg)
      rw [State.grant_of_gated hr hg hs, State.connect, State.channel_setChannel, if_neg hne]
      exact congrArg (fun v : Vector Channel 16 => v[h]) (State.channels_startLease ..)

/-- The resource's channel that does not settle joins the branch of the granted client (R91). -/
theorem State.channel_grant (hr : s.find n = some r) (hg : r.gate = some g) (hs : ¬ Settling s r) :
    (s.grant own n w rest).channel g = { s.channel g with state := .connected (s.client w.client).branch } := by
  rw [State.grant_of_gated hr hg hs, State.connect, State.channel_setChannel, if_pos rfl]
  exact congrArg (fun v : Vector Channel 16 => { v[g] with state := .connected (s.client w.client).branch })
    (State.channels_startLease ..)

/-- A grant leaves a resource's channel SETTLING, or not (R91). -/
theorem settling_grant (hr : s.find n = some r) (gs : List (Waiter × Gen)) (ws : List Waiter) :
    Settling (s.grant own n w rest) (r.afterGrants gs ws) ↔ Settling s r := by
  by_cases hs : Settling s r
  · have hkept (g : ChannelId) := State.channel_grant_of_other (own := own) (w := w) (rest := rest) (h := g) hr (.inr hs)
    simp only [Settling, hkept]
    rfl
  · refine iff_of_false ?_ hs
    rintro ⟨g, hg, hg'⟩
    have hg : r.gate = some g := hg
    rw [State.channel_grant hr hg hs] at hg'
    cases hg'

theorem leaseEnd_grant (gs : List (Waiter × Gen)) (ws : List Waiter) :
    leaseEnd (s.grant own n w rest) (r.afterGrants gs ws) = leaseEnd s r := by
  unfold leaseEnd
  rw [(s.grant_tablesOnly own n w rest).clock]
  rfl

end

/-! ### The grant pass -/

/-- A run of the grant pass that grants `gs` and leaves the waiters `rest` (R45, R46, R48). -/
structure GrantRun (own : Option ClientId) (n : Name) (s t : State) (r : Record) (gs : List (Waiter × Gen))
    (rest : List Waiter) : Prop where
  waiters : r.waiters = gs.map Prod.fst ++ rest
  found : t.find n = some (r.afterGrants gs rest)
  compatible : ∀ k x, gs[k]? = some x → (r.afterGrants (gs.take k) []).compatible x.1.mode = true
  stuck : HeadIncompatible (r.afterGrants gs rest)
  other : ∀ k, k ≠ n → t.find k = s.find k
  nodup : (gs.map Prod.snd).Nodup
  fresh : ∀ x ∈ gs, x.2 ≠ 0#32 ∧ ∀ d j, (s.slot d j).holdingGen ≠ some x.2
  generation : t.generation = (gs.map Prod.snd).getLastD s.generation
  slot : ∀ x ∈ gs, Slot.OfGrant s n r x (t.slot x.1.client x.1.slot)
  slotKept : ∀ d j, (∀ x ∈ gs, ¬ (x.1.client = d ∧ x.1.slot = j)) → t.slot d j = s.slot d j
  contexts : ContextsKept s t
  queueKept : ∀ c, Settling s r ∨ own = some c → (t.client c).queue = (s.client c).queue
  queue : ∀ c, ¬ Settling s r → own ≠ some c → (t.client c).queue =
    (gs.filter fun x => x.1.client == c).foldl (fun q x => postEntry x.1.slot .ordinary q) (s.client c).queue
  channelKept : ∀ ch, r.gate ≠ some ch ∨ gs = [] ∨ Settling s r → t.channel ch = s.channel ch
  connected : ¬ Settling s r → ∀ x ∈ gs, ∀ ch, r.gate = some ch →
    t.channel ch = { s.channel ch with state := .connected (s.client x.1.client).branch }
  outside : OutsideKept s t

section

variable {s t : State} {own : Option ClientId} {n : Name} {w : Waiter} {r : Record}

theorem OutsideKept.trans {u : State} (h : OutsideKept s t) (k : OutsideKept t u) : OutsideKept s u := by
  obtain ⟨h1, h2, h3, h4⟩ := h
  obtain ⟨k1, k2, k3, k4⟩ := k
  exact ⟨k1.trans h1, k2.trans h2, k3.trans h3, k4.trans h4⟩

theorem Record.afterGrants_nil (r : Record) : r.afterGrants [] r.waiters = r := by
  simp [Record.afterGrants]

theorem Record.afterGrants_cons (r : Record) (x : Waiter × Gen) (gs : List (Waiter × Gen)) (ws rest : List Waiter) :
    (r.afterGrants [x] ws).afterGrants gs rest = r.afterGrants (x :: gs) rest := by
  simp [Record.afterGrants]

/-- A grant pass that finds an empty queue or an incompatible head grants nothing (R45). -/
theorem GrantRun.refl (hr : s.find n = some r) (h : HeadIncompatible r) : GrantRun own n s s r [] r.waiters where
  waiters := rfl
  found := by rw [r.afterGrants_nil, hr]
  compatible := nofun
  stuck := by rw [r.afterGrants_nil]; exact h
  other _ _ := rfl
  nodup := .nil
  fresh := nofun
  generation := rfl
  slot := nofun
  slotKept _ _ _ := rfl
  contexts := .refl s
  queueKept _ _ := rfl
  queue _ _ _ := rfl
  channelKept _ _ := rfl
  connected _ := nofun
  outside := ⟨rfl, rfl, rfl, rfl⟩

theorem State.grant_contextsKept (s : State) (own : Option ClientId) (n : Name) (w : Waiter) (rest : List Waiter) :
    ContextsKept s (s.grant own n w rest) := (Moves.grant (W := NoWait) s own n w rest).contextsKept

/-- A gated resource grants one waiter at most: its share limit is 1 (R90). -/
theorem afterGrants_incompatible (hgate : r.gate.isSome = true → r.shareLimit = 1) (hg : r.gate.isSome = true)
    {gs : List (Waiter × Gen)} (hgs : gs ≠ []) (ws : List Waiter) (m : Mode) :
    (r.afterGrants gs ws).compatible m = false := by
  have hholders : (r.afterGrants gs ws).holders ≠ [] := by simp [Record.afterGrants, hgs]
  refine Bool.eq_false_iff.mpr fun h => hholders ?_
  cases m with
  | exclusive => exact (Record.compatible_exclusive_iff _).mp h
  | shared => exact (Record.compatible_shared_iff_of_limit_one (r := r.afterGrants gs ws) (hgate hg)).mp h

/-- The grant of a compatible head, and the pass over the rest (R45). -/
theorem GrantRun.cons {ws rest : List Waiter} {gs : List (Waiter × Gen)} (hr : s.find n = some r)
    (hgate : r.gate.isSome = true → r.shareLimit = 1) (hws : r.waiters = w :: ws) (hc : r.compatible w.mode = true)
    (hplaces : ∀ x ∈ ws, ¬ (x.client = w.client ∧ x.slot = w.slot))
    (hwait : (s.slot w.client w.slot).holdingGen = none)
    (h : GrantRun own n (s.grant own n w ws) t (r.afterGrants [(w, s.drawn)] ws) gs rest) :
    GrantRun own n s t r ((w, s.drawn) :: gs) rest := by
  have hwaiters : ws = gs.map Prod.fst ++ rest := h.waiters
  have hsettling := settling_grant (own := own) (w := w) (rest := ws) hr [(w, s.drawn)] ws
  have hlease := leaseEnd_grant (s := s) (own := own) (n := n) (w := w) (rest := ws) (r := r) [(w, s.drawn)] ws
  have hslot := s.slot_grant own n w ws
  have hkept := s.grant_contextsKept own n w ws
  have hnot (x) (hx : x ∈ gs) : ¬ (x.1.client = w.client ∧ x.1.slot = w.slot) :=
    hplaces x.1 (by rw [hwaiters]; exact List.mem_append_left _ (List.mem_map_of_mem hx))
  have hfresh : ∀ x ∈ gs, x.2 ≠ 0#32 ∧ x.2 ≠ s.drawn ∧ ∀ d j, (s.slot d j).holdingGen ≠ some x.2 := by
    intro x hx
    obtain ⟨hzero, hheld⟩ := h.fresh x hx
    refine ⟨hzero, fun e => ?_, fun d j e => ?_⟩
    · have hw := hheld w.client w.slot
      rw [hslot, if_pos ⟨rfl, rfl⟩, Slot.holdingGen_eq_map, State.holding_grantedSlot] at hw
      exact hw (congrArg some e.symm)
    · have hd := hheld d j
      rw [hslot] at hd
      split at hd
      · next hw => obtain ⟨rfl, rfl⟩ := hw; rw [hwait] at e; cases e
      · exact hd e
  refine {
    waiters := by rw [hws, hwaiters]; rfl
    found := by rw [h.found, Record.afterGrants_cons]
    compatible := fun k x hx => ?_
    stuck := by rw [← Record.afterGrants_cons]; exact h.stuck
    other := fun k hk => by rw [h.other k hk, State.find_grant hr, if_neg hk]
    nodup := ?_
    fresh := ?_
    generation := ?_
    slot := ?_
    slotKept := fun d j hd => ?_
    contexts := hkept.trans h.contexts
    queueKept := fun c hc => ?_
    queue := fun c hs ho => ?_
    channelKept := fun ch hch => ?_
    connected := fun hs x hx ch hch => ?_
    outside := OutsideKept.trans (s.grant_tablesOnly own n w ws).outsideKept h.outside }
  · cases k with
    | zero =>
      cases hx
      have hnone : (r.afterGrants [] []).holders = r.holders := by simp [Record.afterGrants]
      exact (Record.compatible_congr (q := r) hnone rfl w.mode).trans hc
    | succ k =>
      rw [List.take_succ_cons, ← r.afterGrants_cons _ _ ws]
      exact h.compatible k x hx
  · rw [List.map_cons, List.nodup_cons]
    refine ⟨fun hmem => ?_, h.nodup⟩
    obtain ⟨x, hx, e⟩ := List.mem_map.mp hmem
    exact (hfresh x hx).2.1 e
  · intro x hx
    obtain rfl | hx := List.mem_cons.mp hx
    · exact ⟨s.drawn_ne_zero, s.drawn_not_held⟩
    · exact ⟨(hfresh x hx).1, (hfresh x hx).2.2⟩
  · rw [h.generation, State.grant_generation]
    cases gs <;> rfl
  · intro x hx
    obtain rfl | hx := List.mem_cons.mp hx
    · rw [h.slotKept _ _ hnot, hslot, if_pos ⟨rfl, rfl⟩]
      exact State.grantedSlot_ofGrant hr
    · have hx := h.slot x hx
      unfold Slot.OfGrant at hx ⊢
      rwa [hsettling, hlease] at hx
  · rw [h.slotKept d j fun x hx => hd x (List.mem_cons_of_mem _ hx), hslot, if_neg (hd _ List.mem_cons_self)]
  · rw [h.queueKept c (hc.imp_left hsettling.mpr), State.queue_grant_kept hr (hc.imp_right .inl)]
  · rw [h.queue c (mt hsettling.mp hs) ho]
    by_cases hw : w.client = c
    · subst hw
      rw [State.queue_grant_posted hr hs ho, List.filter_cons_of_pos (by simp), List.foldl_cons]
    · rw [State.queue_grant_kept hr (.inr (.inr hw)), List.filter_cons_of_neg (by simpa using hw)]
  · have hfirst : r.gate ≠ some ch ∨ Settling s r := hch.imp_right fun k => k.resolve_left (List.cons_ne_nil _ _)
    rw [h.channelKept ch (hfirst.imp_right fun k => .inr (hsettling.mpr k)), State.channel_grant_of_other hr hfirst]
  · have hempty : gs = [] := by
      by_contra hne
      obtain ⟨y, ys, rfl⟩ := List.exists_cons_of_ne_nil hne
      have hgated : r.gate.isSome = true := hch ▸ rfl
      have hhead := h.compatible 0 y rfl
      rw [List.take_zero, r.afterGrants_cons, afterGrants_incompatible hgate hgated (List.cons_ne_nil _ _)] at hhead
      cases hhead
    subst hempty
    rw [h.channelKept ch (.inr (.inl rfl)), State.channel_grant hr hch hs]
    obtain rfl | hx := List.mem_cons.mp hx
    · rfl
    · cases hx

/-- The grant pass over a whole wait queue is a run (R45). -/
theorem exists_grantRun (own : Option ClientId) (n : Name) (ws : List Waiter) : ∀ {s : State} {r : Record}, s.find n = some r →
    r.waiters = ws → (r.gate.isSome = true → r.shareLimit = 1) → (ws.map fun w => (w.client, w.slot)).Nodup →
    (∀ w ∈ ws, (s.slot w.client w.slot).holdingGen = none) → ∃ gs rest, GrantRun own n s (grantLoop own n ws s) r gs rest := by
  induction ws with
  | nil =>
    intro s r hr hws _ _ _
    refine ⟨[], r.waiters, .refl hr fun w hw => ?_⟩
    rw [hws] at hw
    cases hw
  | cons w ws ih =>
    intro s r hr hws hgate hnodup hfree
    simp only [grantLoop, hr]
    cases hc : r.compatible w.mode with
    | false =>
      refine ⟨[], r.waiters, .refl hr fun x hx => ?_⟩
      rw [hws] at hx
      cases hx
      exact hc
    | true =>
      rw [List.map_cons, List.nodup_cons] at hnodup
      have hplaces (x) (hx : x ∈ ws) : ¬ (x.client = w.client ∧ x.slot = w.slot) := fun ⟨hxc, hxs⟩ =>
        hnodup.1 (List.mem_map.mpr ⟨x, hx, by rw [hxc, hxs]⟩)
      have hnext : (s.grant own n w ws).find n = some (r.afterGrants [(w, s.drawn)] ws) := by
        rw [State.find_grant hr, if_pos rfl]
      obtain ⟨gs, rest, h⟩ := ih hnext rfl hgate hnodup.2 fun x hx => by
        rw [s.slot_grant, if_neg fun e => hplaces x hx ⟨e.1.symm, e.2.symm⟩]
        exact hfree x (List.mem_cons_of_mem _ hx)
      exact ⟨_, _, .cons hr hgate hws hc hplaces (hfree w List.mem_cons_self) h⟩

theorem Slot.holdingGen_of_wait {x : Slot} {y : Name × Mode} (h : x.wait = some y) : x.holdingGen = none := by
  cases x with
  | waiting => rfl
  | free | gating | held | recalled | ended => cases h

/-- The grant pass for a resource of a lawful directory is a run (R45). -/
theorem State.grantPass_run (hlaw : DirectoryLawful s) (hbacked : ListsBacked s) (hr : s.find n = some r)
    (own : Option ClientId) : ∃ gs rest, GrantRun own n s (s.grantPass own n) r gs rest := by
  have hmem := List.mem_of_find?_eq_some hr
  obtain ⟨-, -, hrecords⟩ := hlaw
  obtain ⟨⟨-, -, -, -, hgate⟩, -⟩ := hrecords r hmem
  obtain ⟨hwaiters, -, hplaces, -⟩ := hbacked r hmem
  simp only [State.grantPass, hr]
  exact exists_grantRun own n r.waiters hr rfl hgate hplaces fun w hw => Slot.holdingGen_of_wait (hwaiters w hw).1

/-! ### The run in the words of the statement -/

theorem zipWith_grants (gs : List (Waiter × Gen)) (rest : List Waiter) :
    List.zipWith (fun (w : Waiter) (g : Gen) => (⟨w.client, w.slot, w.mode, g⟩ : Holder)) (gs.map Prod.fst ++ rest)
      (gs.map Prod.snd) = gs.map fun x => ⟨x.1.client, x.1.slot, x.1.mode, x.2⟩ := by
  induction gs with
  | nil => exact List.zipWith_nil_right
  | cons x gs ih => simp only [List.map_cons, List.cons_append, List.zipWith_cons_cons, ih]

theorem grantedRecord_eq {gs : List (Waiter × Gen)} {rest : List Waiter} (h : r.waiters = gs.map Prod.fst ++ rest) :
    grantedRecord r (gs.map Prod.snd) = r.afterGrants gs rest := by
  have hdrop : r.waiters.drop (gs.map Prod.snd).length = rest := by
    rw [h, List.length_map, List.drop_left' (List.length_map _)]
  rw [grantedRecord, hdrop, h, zipWith_grants]
  rfl

theorem GrantRun.granted_of_getElem {gs : List (Waiter × Gen)} {rest : List Waiter} (h : r.waiters = gs.map Prod.fst ++ rest)
    {k : Nat} (hk : k < gs.length) {w : Waiter} (hw : r.waiters[k]? = some w) : ∃ g, gs[k]? = some (w, g) := by
  rw [h, List.getElem?_append_left (by rwa [List.length_map]), List.getElem?_map] at hw
  obtain ⟨x, hx, rfl⟩ := Option.map_eq_some_iff.mp hw
  exact ⟨x.2, hx⟩

theorem GrantRun.take_waiters {gs : List (Waiter × Gen)} {rest : List Waiter} (h : r.waiters = gs.map Prod.fst ++ rest) :
    r.waiters.take (gs.map Prod.snd).length = gs.map Prod.fst := by
  rw [h, List.length_map, List.take_left' (List.length_map _)]

theorem GrantRun.compatible_granted {gs : List (Waiter × Gen)} {rest : List Waiter} (h : GrantRun own n s t r gs rest) {k : Nat}
    {w : Waiter} (hk : k < gs.length) (hw : r.waiters[k]? = some w) :
    (grantedRecord r ((gs.map Prod.snd).take k)).compatible w.mode = true := by
  obtain ⟨g, hg⟩ := granted_of_getElem h.waiters hk hw
  have hsplit : r.waiters = (gs.take k).map Prod.fst ++ ((gs.drop k).map Prod.fst ++ rest) := by
    rw [← List.append_assoc, ← List.map_append, List.take_append_drop]
    exact h.waiters
  rw [← List.map_take, grantedRecord_eq hsplit]
  exact (Record.compatible_congr (q := r.afterGrants (gs.take k) []) rfl rfl w.mode).trans (h.compatible k _ hg)

theorem client_eq_of_contextsKept (h : ContextsKept s t) (c : ClientId) :
    t.client c = { s.client c with slots := (t.client c).slots, queue := (t.client c).queue } := by
  have h1 := h.state c; have h2 := h.port c; have h3 := h.branch c; have h4 := h.priority c
  have h5 := h.admin c; have h6 := h.cache c
  generalize t.client c = x at *
  cases x
  simp_all

end

/-- Settles O36: the pass over the queue is a run of grants of compatible heads, each of which draws a fresh generation. -/
theorem grantPassGrantsAPrefix : Obligations.GrantPassGrantsAPrefix := by
  intro s own n r hlaw hbacked hr t
  obtain ⟨gs, rest, h⟩ := State.grantPass_run hlaw hbacked hr own
  have hlength : (gs.map Prod.snd).length = gs.length := List.length_map _
  have heq := grantedRecord_eq h.waiters
  have htake := GrantRun.take_waiters h.waiters
  have hnth {k : Nat} {w : Waiter} {g : Gen} (hw : r.waiters[k]? = some w) (hg : (gs.map Prod.snd)[k]? = some g) : (w, g) ∈ gs := by
    have hk : k < gs.length := by
      rw [← hlength]
      exact (List.getElem?_eq_some_iff.mp hg).1
    obtain ⟨g', hg'⟩ := GrantRun.granted_of_getElem h.waiters hk hw
    rw [List.getElem?_map, hg'] at hg
    cases hg
    exact List.mem_of_getElem? hg'
  refine ⟨gs.map Prod.snd, ?_, by rw [heq]; exact h.found, by rw [heq]; exact h.stuck,
    fun k w hk hw => h.compatible_granted (hlength ▸ hk) hw, h.other, h.nodup, fun g hg => ?_, h.generation,
    fun k w g hw hg => ⟨(h.slot _ (hnth hw hg)).1, fun hs => ⟨(h.slot _ (hnth hw hg)).2 hs, fun ch hch => ?_⟩⟩,
    fun c => ⟨client_eq_of_contextsKept h.contexts c, h.queueKept c, fun hs ho => ?_⟩, fun d j hd => ?_,
    fun ch hch => ?_, h.outside⟩
  · rw [hlength, h.waiters, List.length_append, List.length_map]
    exact Nat.le_add_right ..
  · obtain ⟨x, hx, rfl⟩ := List.mem_map.mp hg
    exact h.fresh x hx
  · exact h.connected hs _ (hnth hw hg) ch hch
  · rw [htake, h.queue c hs ho, List.filter_map, List.foldl_map]
    rfl
  · exact h.slotKept d j fun x hx => hd _ (htake ▸ List.mem_map_of_mem hx)
  · exact h.channelKept ch (hch.imp_right (.imp_left List.map_eq_nil_iff.mp))

end Sys2Proof.Machine
end

section
/-! PROOFS. The removal of a record, the follow-up, the holder end and the departures from a list (R15, R17, R47, R92). -/

namespace Sys2Proof.Machine

open Sys2Proof.Claims Sys2Proof.Safety

section

variable {s : State} {n : Name} {r : Record}

/-! ### The removal of a record -/

theorem State.removeRecord_of_gate {g : ChannelId} (h : s.gateOf n = some g) : s.removeRecord n =
    { s.setChannel g (s.channel g).unbind with records := s.records.filter fun x => x.name != n } := by
  simp only [State.removeRecord, h]
  rfl

theorem State.removeRecord_of_no_gate (h : s.gateOf n = none) : s.removeRecord n =
    { s with records := s.records.filter fun x => x.name != n } := by
  simp only [State.removeRecord, h]

theorem State.records_removeRecord (s : State) (n : Name) :
    (s.removeRecord n).records = s.records.filter fun x => x.name != n := by
  cases h : s.gateOf n with
  | none => rw [State.removeRecord_of_no_gate h]
  | some g => rw [State.removeRecord_of_gate h]

theorem State.clients_removeRecord (s : State) (n : Name) : (s.removeRecord n).clients = s.clients := by
  cases h : s.gateOf n with
  | none => rw [State.removeRecord_of_no_gate h]
  | some g => rw [State.removeRecord_of_gate h]; rfl

theorem State.generation_removeRecord (s : State) (n : Name) : (s.removeRecord n).generation = s.generation := by
  cases h : s.gateOf n with
  | none => rw [State.removeRecord_of_no_gate h]
  | some g => rw [State.removeRecord_of_gate h]; rfl

/-- The removal of a record releases its own channel's binding and no other (R17). -/
theorem State.channel_removeRecord (s : State) (n : Name) (g : ChannelId) :
    (s.removeRecord n).channel g = if s.gateOf n = some g then (s.channel g).unbind else s.channel g := by
  cases h : s.gateOf n with
  | none => rw [State.removeRecord_of_no_gate h, if_neg (by nofun)]; rfl
  | some k =>
    rw [State.removeRecord_of_gate h]
    change (s.setChannel k (s.channel k).unbind).channel g = _
    rw [State.channel_setChannel]
    by_cases hk : k = g
    · rw [if_pos hk, if_pos (congrArg some hk), hk]
    · rw [if_neg hk, if_neg fun e => hk (Option.some.inj e)]

theorem Channel.unbound_unbind (x : Channel) : Unbound x x.unbind := ⟨rfl, rfl, id, fun _ => id⟩

/-! ### The follow-up -/

theorem State.followUp_of_done (hr : s.find n = some r) (h : r.state = .draining ∧ r.holders = []) :
    s.followUp n = s.removeRecord n := by
  simp only [State.followUp, hr, if_pos h]

theorem State.followUp_of_kept (hr : s.find n = some r) (h : ¬ (r.state = .draining ∧ r.holders = [])) :
    s.followUp n = (s.grantPass none n).evalRecall n := by
  simp only [State.followUp, hr, if_neg h]

theorem State.followUp_of_find_none (h : s.find n = none) : s.followUp n = s := by
  simp only [State.followUp, h]

/-- Recall evaluation leaves the directory alone. -/
theorem State.find_evalRecall (s : State) (n k : Name) : (s.evalRecall n).find k = s.find k := by
  cases hr : s.find n with
  | none => rw [State.evalRecall, hr]
  | some r => exact State.find_of_records (State.evalRecall_recallKept hr).records k

/-- After a follow-up that keeps the record, its head waiter is not compatible and it is not DRAINING without a holder. -/
theorem State.followUp_settled (hr : s.find n = some r) (h : ¬ (r.state = .draining ∧ r.holders = []))
    (hlaw : DirectoryLawful s) (hbacked : ListsBacked s) : ∃ q, (s.followUp n).find n = some q ∧ q.state = r.state ∧
      HeadIncompatible q ∧ (q.state = .draining → q.holders ≠ []) := by
  obtain ⟨gs, rest, run⟩ := State.grantPass_run hlaw hbacked hr none
  refine ⟨r.afterGrants gs rest, ?_, rfl, run.stuck, fun hd hq => ?_⟩
  · rw [State.followUp_of_kept hr h, State.find_evalRecall, run.found]
  · exact h ⟨hd, (List.append_eq_nil_iff.mp hq).1⟩

/-! ### The holder end -/

theorem State.holderEnd_of_gate {g : ChannelId} (hr : s.find n = some r) (hg : r.gate = some g) :
    s.holderEnd n = s.setChannel g (s.channel g).holderEnd := by
  simp only [State.holderEnd, State.gateOf_of_find hr, hg]

theorem State.holderEnd_of_ungated (hr : s.find n = some r) (hg : r.gate = none) : s.holderEnd n = s := by
  simp only [State.holderEnd, State.gateOf_of_find hr, hg]

theorem Channel.holderEnd_of_connected {x : Channel} {b : Branch} (h : x.state = .connected b) :
    x.holderEnd = { x with state := .settling 0 } := by
  simp only [Channel.holderEnd, h]

/-! ### The departures -/

theorem State.find_leaveHolders (s : State) (n : Name) (c : ClientId) (i : SlotId) (k : Name) :
    (s.leaveHolders n c i).find k = if k = n then (s.find n).map (·.dropHolder c i) else s.find k :=
  s.find_updateRecord n k _ fun _ => rfl

theorem State.find_leaveQueue (s : State) (n : Name) (c : ClientId) (i : SlotId) (k : Name) :
    (s.leaveQueue n c i).find k = if k = n then (s.find n).map (·.dropWaiter c i) else s.find k :=
  s.find_updateRecord n k _ fun _ => rfl

end

/-- Settles O17, from the equations of the removal, the follow-up, the holder end and the departures. -/
theorem followUpSettlesTheResource : Obligations.FollowUpSettlesTheResource := by
  refine ⟨fun s n r hr hd hh => ?_, fun s n r hr h => ⟨State.followUp_of_kept hr h, State.followUp_settled hr h⟩,
    fun s n r hr => ⟨fun g b hg hb => ?_, State.holderEnd_of_ungated hr⟩, fun s n r c i hr => ?_⟩
  · rw [State.followUp_of_done hr ⟨hd, hh⟩]
    refine ⟨s.records_removeRecord n, s.clients_removeRecord n, s.generation_removeRecord n,
      (s.removeRecord_tablesOnly n).outsideKept, fun g hg => ?_, fun g hg => ?_⟩
    · rw [State.channel_removeRecord, State.gateOf_of_find hr, if_pos hg]
      exact (s.channel g).unbound_unbind
    · rw [State.channel_removeRecord, State.gateOf_of_find hr, if_neg hg]
  · rw [State.holderEnd_of_gate hr hg, Channel.holderEnd_of_connected hb]
  · have hholders := s.find_leaveHolders n c i
    have hqueue := s.find_leaveQueue n c i
    refine ⟨⟨?_, fun k hk => by rw [hholders, if_neg hk], rfl⟩, ?_, fun k hk => by rw [hqueue, if_neg hk], rfl⟩
    · rw [hholders, if_pos rfl, hr]
      rfl
    · rw [hqueue, if_pos rfl, hr]
      rfl

end Sys2Proof.Machine
end

section
/-! PROOFS. The agreement of the directory and the slots (R29), read by name, and what each move of an entry makes of it. -/

namespace Sys2Proof.Machine

open Sys2Proof.Claims Sys2Proof.Safety

/-! ### The directory by name -/

section

variable {s t : State} {n : Name} {r : Record} {c : ClientId} {i : SlotId}

/-- What a record keeps by itself, and that its entries are such slots (R2, R14, R29, R44). -/
structure RecordBacked (s : State) (n : Name) (r : Record) : Prop where
  fields : FieldsLawful r
  limits : HoldersLawful r
  ordered : QueueOrdered r
  draining : r.state = .draining → r.waiters = []
  waiters : ∀ w ∈ r.waiters, (s.slot w.client w.slot).wait = some (n, w.mode) ∧ w.priority = (s.client w.client).priority
  holders : ∀ h ∈ r.holders, (s.slot h.client h.slot).holding = some (n, h.mode, h.generation)
  waiterPlaces : (r.waiters.map fun w => (w.client, w.slot)).Nodup
  holderPlaces : (r.holders.map fun h => (h.client, h.slot)).Nodup

/-- The directory and the slots agree: the third law with the laws of the records, each record read by its name. -/
structure Linked (s : State) : Prop where
  ascending : s.records.Pairwise fun a b => a.name.toNat < b.name.toNat
  capacity : s.records.length ≤ Config.directoryCapacity
  record : ∀ n r, s.find n = some r → RecordBacked s n r
  waiting : ∀ c i n m, (s.slot c i).wait = some (n, m) → ∃ r, s.find n = some r ∧ ⟨c, i, m, (s.client c).priority⟩ ∈ r.waiters
  holding : ∀ c i n m g, (s.slot c i).holding = some (n, m, g) → ∃ r, s.find n = some r ∧ ⟨c, i, m, g⟩ ∈ r.holders

/-- In an ascending directory a record is found by its name (R4). -/
theorem State.find_of_mem (h : s.records.Pairwise fun a b => a.name.toNat < b.name.toNat) (hr : r ∈ s.records) :
    s.find r.name = some r := by
  refine (List.find?_eq_some_iff_append).mpr ⟨beq_self_eq_true _, ?_⟩
  obtain ⟨as, bs, e⟩ := List.append_of_mem hr
  refine ⟨as, bs, e, fun a ha => ?_⟩
  rw [e, List.pairwise_append] at h
  have hlt : a.name.toNat < r.name.toNat := h.2.2 a ha r List.mem_cons_self
  have hne : a.name ≠ r.name := fun hn => by rw [hn] at hlt; exact lt_irrefl _ hlt
  simpa using hne

theorem State.mem_of_find (h : s.find n = some r) : r ∈ s.records := List.mem_of_find?_eq_some h

theorem linked_iff : Linked s ↔ DirectoryLawful s ∧ SlotsListed s ∧ ListsBacked s := by
  constructor
  · intro h
    have hrecord (r) (hr : r ∈ s.records) := h.record r.name r (State.find_of_mem h.ascending hr)
    refine ⟨⟨h.ascending, h.capacity, fun r hr => ⟨(hrecord r hr).fields, (hrecord r hr).limits, (hrecord r hr).ordered,
      (hrecord r hr).draining⟩⟩, fun c i => ⟨fun x hx => ?_, fun x hx => ?_⟩, fun r hr => ⟨(hrecord r hr).waiters,
      (hrecord r hr).holders, (hrecord r hr).waiterPlaces, (hrecord r hr).holderPlaces⟩⟩
    · obtain ⟨r, hr, hmem⟩ := h.waiting c i x.1 x.2 hx
      exact ⟨r, State.mem_of_find hr, State.find_name hr, hmem⟩
    · obtain ⟨r, hr, hmem⟩ := h.holding c i x.1 x.2.1 x.2.2 hx
      exact ⟨r, State.mem_of_find hr, State.find_name hr, hmem⟩
  · rintro ⟨⟨hasc, hcap, hlaw⟩, hlisted, hbacked⟩
    refine ⟨hasc, hcap, fun n r hr => ?_, fun c i n m hx => ?_, fun c i n m g hx => ?_⟩
    · have hmem := State.mem_of_find hr
      obtain ⟨hfields, hlimits, hordered, hdraining⟩ := hlaw r hmem
      obtain ⟨hwaiters, hholders, hwplaces, hhplaces⟩ := hbacked r hmem
      rw [State.find_name hr] at hwaiters hholders
      exact ⟨hfields, hlimits, hordered, hdraining, hwaiters, hholders, hwplaces, hhplaces⟩
    · obtain ⟨r, hr, rfl, hmem⟩ := (hlisted c i).1 (n, m) hx
      exact ⟨r, State.find_of_mem hasc hr, hmem⟩
    · obtain ⟨r, hr, rfl, hmem⟩ := (hlisted c i).2 (n, m, g) hx
      exact ⟨r, State.find_of_mem hasc hr, hmem⟩

theorem Linked.directoryLawful (h : Linked s) : DirectoryLawful s := (linked_iff.mp h).1

theorem Linked.listsBacked (h : Linked s) : ListsBacked s := (linked_iff.mp h).2.2

theorem ListsAgree.linked (h : ListsAgree s) : Linked s := by
  obtain ⟨hdir, hlisted, hbacked, -⟩ := h
  exact linked_iff.mpr ⟨hdir, hlisted, hbacked⟩

/-- The order of a directory, and its length, are those of its names. -/
theorem ascending_of_names {xs ys : List Record} (hnames : ys.map (·.name) = xs.map (·.name))
    (h : xs.Pairwise fun a b => a.name.toNat < b.name.toNat) : ys.Pairwise fun a b => a.name.toNat < b.name.toNat := by
  have hmap (l : List Record) : l.Pairwise (fun a b => a.name.toNat < b.name.toNat) ↔
      (l.map (·.name)).Pairwise fun a b => a.toNat < b.toNat :=
    (List.pairwise_map (f := fun x : Record => x.name) (R := fun a b => a.toNat < b.toNat)).symm
  rw [hmap, hnames, ← hmap]
  exact h

theorem length_of_names {xs ys : List Record} (hnames : ys.map (·.name) = xs.map (·.name)) : ys.length = xs.length := by
  rw [← List.length_map (f := (·.name)), hnames, List.length_map]

/-! ### What a slot names -/

theorem Slot.liveName_of_wait {x : Slot} {m : Mode} (h : x.wait = some (n, m)) : x.liveName = some n := by
  cases x with
  | waiting => cases h; rfl
  | free | gating | held | recalled | ended => cases h

theorem Slot.liveName_of_holding {x : Slot} {m : Mode} {g : Gen} (h : x.holding = some (n, m, g)) : x.liveName = some n := by
  cases x with
  | gating | held | recalled => cases h; rfl
  | free | waiting | ended => cases h

theorem Slot.wait_of_not_live {x : Slot} (h : x.liveName = none) : x.wait = none := by
  cases x with
  | waiting => cases h
  | free | gating | held | recalled | ended => rfl

theorem Slot.holding_of_not_live {x : Slot} (h : x.liveName = none) : x.holding = none := by
  cases x with
  | gating | held | recalled => cases h
  | free | waiting | ended => rfl

theorem Slot.holding_of_wait {x : Slot} {y : Name × Mode} (h : x.wait = some y) : x.holding = none := by
  cases x with
  | waiting => rfl
  | free | gating | held | recalled | ended => cases h

theorem Slot.wait_of_holding {x : Slot} {y : Name × Mode × Gen} (h : x.holding = some y) : x.wait = none := by
  cases x with
  | waiting => cases h
  | free | gating | held | recalled | ended => rfl

/-- A live slot waits for the resource that it names, or holds it. -/
theorem Slot.wait_or_holding_of_live {x : Slot} (h : x.liveName = some n) :
    (∃ m, x.wait = some (n, m)) ∨ ∃ m g, x.holding = some (n, m, g) := by
  cases x with
  | waiting a m w => cases h; exact .inl ⟨m, rfl⟩
  | gating a m g | held a m g l | recalled a m g l d => cases h; exact .inr ⟨m, g, rfl⟩
  | free | ended => cases h

/-! ### Changes that no list sees -/

/-- The agreement depends on the directory, on what the slots wait for and hold, and on the priorities of waiting clients. -/
theorem Linked.congr (hrec : t.records = s.records) (hwait : ∀ c i, (t.slot c i).wait = (s.slot c i).wait)
    (hhold : ∀ c i, (t.slot c i).holding = (s.slot c i).holding)
    (hprio : ∀ c i, (s.slot c i).wait ≠ none → (t.client c).priority = (s.client c).priority) (h : Linked s) : Linked t := by
  have hfind := State.find_of_records hrec
  refine ⟨hrec ▸ h.ascending, hrec ▸ h.capacity, fun n r hr => ?_, fun c i n m hx => ?_, fun c i n m g hx => ?_⟩
  · have hs := h.record n r (hfind n ▸ hr)
    exact { hs with
      waiters := fun w hw => by
        obtain ⟨hx, hp⟩ := hs.waiters w hw
        exact ⟨(hwait _ _).trans hx, hp.trans (hprio _ _ (by rw [hx]; nofun)).symm⟩
      holders := fun x hx => (hhold _ _).trans (hs.holders x hx) }
  · rw [hwait] at hx
    rw [hfind, hprio c i (by rw [hx]; nofun)]
    exact h.waiting c i n m hx
  · rw [hhold] at hx
    rw [hfind]
    exact h.holding c i n m g hx

/-- A record rewritten with its two lists. -/
theorem Linked.rewrite {q : Record} (h : Linked s) (hr : s.find n = some r)
    (hfind : ∀ k, t.find k = if k = n then some q else s.find k)
    (hnames : t.records.map (·.name) = s.records.map (·.name)) (hclients : t.clients = s.clients)
    (hw : q.waiters = r.waiters) (hh : q.holders = r.holders) (hfields : FieldsLawful q) (hlimits : HoldersLawful q)
    (hdraining : q.state = .draining → q.waiters = []) : Linked t := by
  have hslot := State.slot_of_clients hclients
  have hclient := State.client_of_clients hclients
  refine ⟨?_, ?_, fun k x hx => ?_, fun c i k m hx => ?_, fun c i k m g hx => ?_⟩
  · exact ascending_of_names hnames h.ascending
  · exact (length_of_names hnames).trans_le h.capacity
  · have hother (y : Record) (hy : RecordBacked s k y) : RecordBacked t k y := { hy with
      waiters := fun w hw => by rw [hslot, hclient]; exact hy.waiters w hw
      holders := fun x hx => by rw [hslot]; exact hy.holders x hx }
    rw [hfind] at hx
    split at hx
    · next e =>
      cases hx
      subst e
      obtain hs := hother r (h.record k r hr)
      exact ⟨hfields, hlimits, by rw [QueueOrdered, hw]; exact hs.ordered, hdraining, by rw [hw]; exact hs.waiters,
        by rw [hh]; exact hs.holders, by rw [hw]; exact hs.waiterPlaces, by rw [hh]; exact hs.holderPlaces⟩
    · exact hother x (h.record k x hx)
  · rw [hslot] at hx
    obtain ⟨x, hk, hmem⟩ := h.waiting c i k m hx
    rw [hfind, hclient]
    by_cases e : k = n
    · subst e
      cases hr.symm.trans hk
      exact ⟨q, if_pos rfl, hw ▸ hmem⟩
    · exact ⟨x, (if_neg e).trans hk, hmem⟩
  · rw [hslot] at hx
    obtain ⟨x, hk, hmem⟩ := h.holding c i k m g hx
    rw [hfind]
    by_cases e : k = n
    · subst e
      cases hr.symm.trans hk
      exact ⟨q, if_pos rfl, hh ▸ hmem⟩
    · exact ⟨x, (if_neg e).trans hk, hmem⟩

/-! ### One slot and one record -/

/-- Between two states one slot changes, which names at most the resource `n`, and the entries of that slot in the record of
`n` change with it. -/
structure Relisted (s t : State) (n : Name) (c : ClientId) (i : SlotId) (r q : Record) : Prop where
  found : s.find n = some r
  find : ∀ k, t.find k = if k = n then some q else s.find k
  names : t.records.map (·.name) = s.records.map (·.name)
  other : ∀ d j, ¬ (c = d ∧ i = j) → t.slot d j = s.slot d j
  priority : ∀ d, (t.client d).priority = (s.client d).priority
  before : ∀ k, (s.slot c i).liveName = some k → k = n
  after : ∀ k, (t.slot c i).liveName = some k → k = n
  waiters : ∀ w, w ∈ q.waiters ↔ w ∈ r.waiters ∧ ¬ (c = w.client ∧ i = w.slot) ∨
    (t.slot c i).wait = some (n, w.mode) ∧ w.client = c ∧ w.slot = i ∧ w.priority = (s.client c).priority
  holders : ∀ x, x ∈ q.holders ↔ x ∈ r.holders ∧ ¬ (c = x.client ∧ i = x.slot) ∨
    (t.slot c i).holding = some (n, x.mode, x.generation) ∧ x.client = c ∧ x.slot = i
  waiterPlaces : (q.waiters.map fun w => (w.client, w.slot)).Nodup
  holderPlaces : (q.holders.map fun h => (h.client, h.slot)).Nodup
  fields : FieldsLawful q
  limits : HoldersLawful q
  ordered : QueueOrdered q
  draining : q.state = .draining → q.waiters = []

theorem Relisted.backed {q : Record} (k : Relisted s t n c i r q) (h : Linked s) : RecordBacked t n q where
  fields := k.fields
  limits := k.limits
  ordered := k.ordered
  draining := k.draining
  waiterPlaces := k.waiterPlaces
  holderPlaces := k.holderPlaces
  waiters w hw := by
    rw [k.priority]
    obtain ⟨hmem, hne⟩ | ⟨hwait, hc, hi, hp⟩ := (k.waiters w).mp hw
    · rw [k.other _ _ hne]
      exact (h.record n r k.found).waiters w hmem
    · rw [hc, hi]
      exact ⟨hwait, hp⟩
  holders x hx := by
    obtain ⟨hmem, hne⟩ | ⟨hhold, hc, hi⟩ := (k.holders x).mp hx
    · rw [k.other _ _ hne]
      exact (h.record n r k.found).holders x hmem
    · rw [hc, hi]
      exact hhold

/-- A record of another name has no entry of the slot. -/
theorem Relisted.backed_of_ne {q y : Record} {a : Name} (k : Relisted s t n c i r q) (hne : a ≠ n) (hy : RecordBacked s a y) :
    RecordBacked t a y := { hy with
  waiters := fun w hw => by
    have hs := hy.waiters w hw
    rw [k.priority, k.other]
    · exact hs
    · rintro ⟨rfl, rfl⟩
      exact hne (k.before a (Slot.liveName_of_wait hs.1))
  holders := fun x hx => by
    have hs := hy.holders x hx
    rw [k.other]
    · exact hs
    · rintro ⟨rfl, rfl⟩
      exact hne (k.before a (Slot.liveName_of_holding hs)) }

theorem Relisted.linked {q : Record} (k : Relisted s t n c i r q) (h : Linked s) : Linked t := by
  refine ⟨?_, ?_, fun a x hx => ?_, fun d j a m hx => ?_, fun d j a m g hx => ?_⟩
  · exact ascending_of_names k.names h.ascending
  · exact (length_of_names k.names).trans_le h.capacity
  · rw [k.find] at hx
    split at hx
    · next e => cases hx; subst e; exact k.backed h
    · next e => exact k.backed_of_ne e (h.record a x hx)
  · rw [k.priority, k.find]
    by_cases hplace : c = d ∧ i = j
    · obtain ⟨rfl, rfl⟩ := hplace
      obtain rfl := k.after a (Slot.liveName_of_wait hx)
      exact ⟨q, if_pos rfl, (k.waiters _).mpr (.inr ⟨hx, rfl, rfl, rfl⟩)⟩
    · rw [k.other d j hplace] at hx
      obtain ⟨x, ha, hmem⟩ := h.waiting d j a m hx
      by_cases e : a = n
      · subst e
        cases k.found.symm.trans ha
        exact ⟨q, if_pos rfl, (k.waiters _).mpr (.inl ⟨hmem, hplace⟩)⟩
      · exact ⟨x, (if_neg e).trans ha, hmem⟩
  · rw [k.find]
    by_cases hplace : c = d ∧ i = j
    · obtain ⟨rfl, rfl⟩ := hplace
      obtain rfl := k.after a (Slot.liveName_of_holding hx)
      exact ⟨q, if_pos rfl, (k.holders _).mpr (.inr ⟨hx, rfl, rfl⟩)⟩
    · rw [k.other d j hplace] at hx
      obtain ⟨x, ha, hmem⟩ := h.holding d j a m g hx
      by_cases e : a = n
      · subst e
        cases k.found.symm.trans ha
        exact ⟨q, if_pos rfl, (k.holders _).mpr (.inl ⟨hmem, hplace⟩)⟩
      · exact ⟨x, (if_neg e).trans ha, hmem⟩

end

/-! ### The four moves of an entry -/

section

variable {s : State} {n : Name} {r : Record} {c : ClientId} {i : SlotId} {m : Mode}

theorem State.names_updateRecord (s : State) (n : Name) (f : Record → Record) (hf : ∀ r, (f r).name = r.name) :
    (s.updateRecord n f).records.map (·.name) = s.records.map (·.name) := by
  unfold State.updateRecord
  rw [List.map_map]
  refine List.map_congr_left fun r _ => ?_
  simp only [Function.comp_apply]
  split
  · exact hf r
  · rfl

/-- A place that waits for a resource is not among its holders. -/
theorem Linked.not_holder_of_wait (h : Linked s) (hr : s.find n = some r) {y : Name × Mode} (hx : (s.slot c i).wait = some y) :
    ∀ x ∈ r.holders, ¬ (c = x.client ∧ i = x.slot) := by
  rintro x hmem ⟨rfl, rfl⟩
  cases (Slot.holding_of_wait hx).symm.trans ((h.record n r hr).holders x hmem)

/-- A place that does not wait has no entry in a wait queue. -/
theorem Linked.not_waiter_of_wait_none (h : Linked s) (hr : s.find n = some r) (hx : (s.slot c i).wait = none) :
    ∀ w ∈ r.waiters, ¬ (c = w.client ∧ i = w.slot) := by
  rintro w hmem ⟨rfl, rfl⟩
  cases hx.symm.trans ((h.record n r hr).waiters w hmem).1

/-- A place that holds nothing is not among the holders. -/
theorem Linked.not_holder_of_holding_none (h : Linked s) (hr : s.find n = some r) (hx : (s.slot c i).holding = none) :
    ∀ x ∈ r.holders, ¬ (c = x.client ∧ i = x.slot) := by
  rintro x hmem ⟨rfl, rfl⟩
  cases hx.symm.trans ((h.record n r hr).holders x hmem)

theorem mem_dropWaiter (w : Waiter) : w ∈ (r.dropWaiter c i).waiters ↔ w ∈ r.waiters ∧ ¬ (c = w.client ∧ i = w.slot) := by
  rw [Record.dropWaiter, List.mem_filter, eq_comm (a := c), eq_comm (a := i)]
  simp [imp_iff_not_or]

theorem mem_dropHolder (x : Holder) : x ∈ (r.dropHolder c i).holders ↔ x ∈ r.holders ∧ ¬ (c = x.client ∧ i = x.slot) := by
  rw [Record.dropHolder, List.mem_filter, eq_comm (a := c), eq_comm (a := i)]
  simp [imp_iff_not_or]

theorem holdersLawful_dropHolder (h : HoldersLawful r) : HoldersLawful (r.dropHolder c i) := by
  have hsub : (r.dropHolder c i).holders.Sublist r.holders := List.filter_sublist
  refine ⟨hsub.length_le.trans h.1, fun x hx hm => le_antisymm ?_ (List.length_pos_of_mem hx)⟩
  exact hsub.length_le.trans (h.2 x (hsub.subset hx) hm).le

/-- A WAITING slot leaves its resource's queue and names no resource any more. -/
theorem Linked.leaveQueue {w : Option Deadline} {x : Slot} (h : Linked s) (hs : s.slot c i = .waiting n m w)
    (hx : x.liveName = none) : Linked ((s.leaveQueue n c i).setSlot c i x) := by
  have hwait : (s.slot c i).wait = some (n, m) := by rw [hs]; rfl
  obtain ⟨r, hr, -⟩ := h.waiting c i n m hwait
  have hself : ((s.leaveQueue n c i).setSlot c i x).slot c i = x := by simp
  have hbacked := h.record n r hr
  have hsub : (r.dropWaiter c i).waiters.Sublist r.waiters := List.filter_sublist
  refine Relisted.linked (q := r.dropWaiter c i) (n := n) (c := c) (i := i) (r := r) {
    found := hr
    find := fun k => ?_
    names := s.names_updateRecord n _ fun _ => rfl
    other := fun d j hne => by rw [State.slot_setSlot, if_neg hne, State.leaveQueue_slot]
    priority := ((s.leaveQueue n c i).setSlot_recallKept c i x |>.client |> ContextsKept.priority)
    before := fun k hk => by rw [Slot.liveName_of_wait hwait] at hk; exact (Option.some.inj hk).symm
    after := fun k hk => by rw [hself, hx] at hk; cases hk
    waiters := fun y => by
      rw [mem_dropWaiter, hself, Slot.wait_of_not_live hx]
      simp
    holders := fun y => by
      rw [hself, Slot.holding_of_not_live hx]
      have := h.not_holder_of_wait hr hwait y
      show y ∈ r.holders ↔ _
      simp only [reduceCtorEq, false_and, or_false, iff_self_and]
      exact this
    waiterPlaces := hbacked.waiterPlaces.sublist (hsub.map _)
    holderPlaces := hbacked.holderPlaces
    fields := hbacked.fields
    limits := hbacked.limits
    ordered := hbacked.ordered.sublist hsub
    draining := fun hd => by
      have := hbacked.draining hd
      rw [this] at hsub
      exact List.sublist_nil.mp hsub } h
  rw [State.setSlot_find, State.find_leaveQueue, hr]
  rfl

/-- A holding slot leaves its resource's holder list and names no resource any more. -/
theorem Linked.leaveHolders {g : Gen} {x : Slot} (h : Linked s) (hs : (s.slot c i).holding = some (n, m, g))
    (hx : x.liveName = none) : Linked ((s.leaveHolders n c i).setSlot c i x) := by
  obtain ⟨r, hr, -⟩ := h.holding c i n m g hs
  have hself : ((s.leaveHolders n c i).setSlot c i x).slot c i = x := by simp
  have hbacked := h.record n r hr
  have hsub : (r.dropHolder c i).holders.Sublist r.holders := List.filter_sublist
  refine Relisted.linked (q := r.dropHolder c i) (n := n) (c := c) (i := i) (r := r) {
    found := hr
    find := fun k => ?_
    names := s.names_updateRecord n _ fun _ => rfl
    other := fun d j hne => by rw [State.slot_setSlot, if_neg hne, State.leaveHolders_slot]
    priority := ((s.leaveHolders n c i).setSlot_recallKept c i x |>.client |> ContextsKept.priority)
    before := fun k hk => by rw [Slot.liveName_of_holding hs] at hk; exact (Option.some.inj hk).symm
    after := fun k hk => by rw [hself, hx] at hk; cases hk
    waiters := fun y => by
      rw [hself, Slot.wait_of_not_live hx]
      have := h.not_waiter_of_wait_none hr (Slot.wait_of_holding hs) y
      show y ∈ r.waiters ↔ _
      simp only [reduceCtorEq, false_and, or_false, iff_self_and]
      exact this
    holders := fun y => by
      rw [mem_dropHolder, hself, Slot.holding_of_not_live hx]
      simp
    waiterPlaces := hbacked.waiterPlaces
    holderPlaces := hbacked.holderPlaces.sublist (hsub.map _)
    fields := hbacked.fields
    limits := holdersLawful_dropHolder hbacked.limits
    ordered := hbacked.ordered
    draining := hbacked.draining } h
  rw [State.setSlot_find, State.find_leaveHolders, hr]
  rfl

/-- A FREE slot joins the wait queue of a resource that is not DRAINING (R44). -/
theorem Linked.enqueue (h : Linked s) (hr : s.find n = some r) (hd : r.state ≠ .draining) (hs : s.slot c i = .free) (m : Mode) :
    Linked (s.enqueue c i n m) := by
  have hself : (s.enqueue c i n m).slot c i = .waiting n m none := by rw [s.slot_enqueue, if_pos ⟨rfl, rfl⟩]
  have hbacked := h.record n r hr
  have hnone := h.not_waiter_of_wait_none hr (c := c) (i := i) (by rw [hs]; rfl)
  obtain ⟨pre, post, hsplit, hins, hpre, hpost⟩ := insertWaiter_split (s.entry c i m) hbacked.ordered
  refine Relisted.linked (q := { r with waiters := pre ++ s.entry c i m :: post }) (n := n) (c := c) (i := i) (r := r) {
    found := hr
    find := fun k => ?_
    names := (s.setSlot c i (.waiting n m none)).names_updateRecord n _ fun _ => rfl
    other := fun d j hne => by rw [s.slot_enqueue, if_neg hne]
    priority := (Moves.enqueue (W := fun _ _ => True) s c i n m trivial).contextsKept.priority
    before := fun k hk => by rw [hs] at hk; cases hk
    after := fun k hk => by rw [hself] at hk; exact (Option.some.inj hk).symm
    waiters := fun y => ?_
    holders := fun y => by
      have := h.not_holder_of_holding_none hr (c := c) (i := i) (by rw [hs]; rfl) y
      rw [hself]
      simp only [Slot.holding, reduceCtorEq, false_and, or_false, iff_self_and]
      exact this
    waiterPlaces := ?_
    holderPlaces := hbacked.holderPlaces
    fields := hbacked.fields
    limits := hbacked.limits
    ordered := pairwise_insertion (hsplit ▸ hbacked.ordered) hpre hpost
    draining := fun e => absurd e hd } h
  · rw [s.find_enqueue, hr, ← hins]
    rfl
  · have hmem : y ∈ pre ++ s.entry c i m :: post ↔ y ∈ r.waiters ∨ y = s.entry c i m := by
      rw [hsplit]
      simp only [List.mem_append, List.mem_cons]
      tauto
    rw [hself, hmem]
    refine or_congr ⟨fun hy => ⟨hy, hnone y hy⟩, And.left⟩ ⟨?_, ?_⟩
    · rintro rfl
      exact ⟨rfl, rfl, rfl, rfl⟩
    · rintro ⟨e, hyc, hyi, hp⟩
      have hm : m = y.mode := (Prod.mk.inj (Option.some.inj e)).2
      cases y
      subst hm hyc hyi
      exact congrArg _ hp
  · rw [List.map_append, List.map_cons, List.nodup_middle, ← List.map_append, ← hsplit, List.nodup_cons]
    refine ⟨fun hin => ?_, hbacked.waiterPlaces⟩
    obtain ⟨w, hw, e⟩ := List.mem_map.mp hin
    obtain ⟨e1, e2⟩ := Prod.mk.inj e
    exact hnone w hw ⟨e1.symm, e2.symm⟩

/-- The holders of a resource after the grant of a compatible waiter (R2, R43). -/
theorem holdersLawful_granted {q : Record} {x : Holder} (hc : r.compatible x.mode = true)
    (hq : q.holders = r.holders ++ [x]) (hl : q.shareLimit = r.shareLimit) (hpos : 1 ≤ r.shareLimit) : HoldersLawful q := by
  unfold HoldersLawful
  rw [hq, hl]
  cases hx : x.mode with
  | exclusive =>
    rw [hx, Record.compatible_exclusive_iff] at hc
    rw [hc]
    exact ⟨hpos, fun _ _ _ => rfl⟩
  | shared =>
    rw [hx, Record.compatible_shared_iff] at hc
    obtain ⟨hnone, hlt⟩ := hc
    rw [List.length_append]
    refine ⟨hlt, fun y hy hm => ?_⟩
    obtain hy | hy := List.mem_append.mp hy
    · exact absurd hm (hnone y hy)
    · rw [List.mem_singleton.mp hy, hx] at hm
      cases hm

/-- The grant of a compatible head waiter (R46). -/
theorem Linked.grant {w : Waiter} {rest : List Waiter} (h : Linked s) (hr : s.find n = some r) (hws : r.waiters = w :: rest)
    (hc : r.compatible w.mode = true) (own : Option ClientId) : Linked (s.grant own n w rest) := by
  have hbacked := h.record n r hr
  have hw := (hbacked.waiters w (hws ▸ List.mem_cons_self)).1
  have hnot := h.not_holder_of_wait hr hw
  have hself : ((s.grant own n w rest).slot w.client w.slot).holding = some (n, w.mode, s.drawn) := by
    rw [s.slot_grant, if_pos ⟨rfl, rfl⟩, State.holding_grantedSlot]
  have hordered : (w :: rest).Pairwise fun a b => a.priority ≤ b.priority := hws ▸ hbacked.ordered
  have hplaces := hbacked.waiterPlaces
  rw [hws, List.map_cons, List.nodup_cons] at hplaces
  refine Relisted.linked (q := r.afterGrants [(w, s.drawn)] rest) (n := n) (c := w.client) (i := w.slot) (r := r) {
    found := hr
    find := State.find_grant hr
    names := ?_
    other := fun d j hne => by rw [s.slot_grant, if_neg hne]
    priority := (s.grant_contextsKept own n w rest).priority
    before := fun k hk => by rw [Slot.liveName_of_wait hw] at hk; exact (Option.some.inj hk).symm
    after := fun k hk => by rw [Slot.liveName_of_holding hself] at hk; exact (Option.some.inj hk).symm
    waiters := fun y => ?_
    holders := fun y => ?_
    waiterPlaces := hplaces.2
    holderPlaces := ?_
    fields := hbacked.fields
    limits := holdersLawful_granted (x := ⟨w.client, w.slot, w.mode, s.drawn⟩) hc rfl rfl hbacked.fields.2.2.1
    ordered := (List.pairwise_cons.mp hordered).2
    draining := fun hd => by
      have hempty : r.waiters = [] := hbacked.draining hd
      rw [hws] at hempty
      cases hempty } h
  · rw [State.records_grant]
    exact State.names_updateRecord _ n _ fun _ => rfl
  · show y ∈ rest ↔ _
    rw [Slot.wait_of_holding hself, hws]
    simp only [reduceCtorEq, false_and, or_false, List.mem_cons]
    refine ⟨fun hy => ⟨.inr hy, fun ⟨e1, e2⟩ => hplaces.1 (List.mem_map.mpr ⟨y, hy, by rw [e1, e2]⟩)⟩,
      fun ⟨hy, hne⟩ => ?_⟩
    exact hy.resolve_left fun e => hne (e ▸ ⟨rfl, rfl⟩)
  · show y ∈ r.holders ++ [⟨w.client, w.slot, w.mode, s.drawn⟩] ↔ _
    rw [hself, List.mem_append, List.mem_singleton]
    refine or_congr ⟨fun hy => ⟨hy, hnot y hy⟩, And.left⟩ ⟨?_, ?_⟩
    · rintro rfl
      exact ⟨rfl, rfl, rfl⟩
    · rintro ⟨e, e1, e2⟩
      cases y
      cases e1; cases e2; cases e
      rfl
  · have hlist : (r.afterGrants [(w, s.drawn)] rest).holders = r.holders ++ [⟨w.client, w.slot, w.mode, s.drawn⟩] := rfl
    rw [hlist]
    rw [List.map_append, List.nodup_append]
    refine ⟨hbacked.holderPlaces, List.nodup_singleton _, fun a ha b hb => ?_⟩
    obtain ⟨x, hx, rfl⟩ := List.mem_map.mp ha
    rw [List.map_singleton, List.mem_singleton] at hb
    rintro rfl
    obtain ⟨e1, e2⟩ := Prod.mk.inj hb
    exact hnot x hx ⟨e1.symm, e2.symm⟩

end

end Sys2Proof.Machine
end

section
/-! PROOFS. The operations over a resource keep the agreement of the directory and the slots (R29). -/

namespace Sys2Proof.Machine

open Sys2Proof.Claims Sys2Proof.Safety

/-! ### Slots alike but for deadlines and recalls -/

/-- A slot without its deadlines, RECALLED read as HELD. -/
def Slot.core : Slot → Slot
  | .free => .free
  | .waiting n m _ => .waiting n m none
  | .gating n m g => .gating n m g
  | .held n m g _ => .held n m g ⟨0#40, false⟩
  | .recalled n m g _ _ => .held n m g ⟨0#40, false⟩
  | .ended n m g e => .ended n m g e

section

variable {x y : Slot} (h : y.core = x.core)
include h

theorem Slot.wait_of_core : y.wait = x.wait := by cases x <;> cases y <;> cases h <;> rfl

theorem Slot.holding_of_core : y.holding = x.holding := by cases x <;> cases y <;> cases h <;> rfl

theorem Slot.leased_of_core : y.leased = x.leased := by cases x <;> cases y <;> cases h <;> rfl

theorem Slot.isGating_of_core : y.isGating = x.isGating := by cases x <;> cases y <;> cases h <;> rfl

theorem Slot.isEnded_of_core : y.isEnded = x.isEnded := by cases x <;> cases y <;> cases h <;> rfl

theorem Slot.isWaiting_of_core : y.isWaiting = x.isWaiting := by cases x <;> cases y <;> cases h <;> rfl

theorem Slot.liveName_of_core : y.liveName = x.liveName := by cases x <;> cases y <;> cases h <;> rfl

theorem Slot.eq_free_of_core (hx : x = .free) : y = .free := by subst hx; cases y <;> cases h; rfl

end

theorem Slot.core_afterEval (due : Deadline) (x : Slot) (b : Bool) : (x.afterEval due b).core = x.core := by
  cases x <;> cases b <;> rfl

theorem Slot.core_slotAt (now : Clock) (x : Slot) : (slotAt now x).core = x.core := by
  cases x with
  | waiting n m w => cases w <;> rfl
  | _ => rfl

/-- Every slot is the same but for deadlines and recalls. -/
def SlotsAlike (s t : State) : Prop := ∀ c i, (t.slot c i).core = (s.slot c i).core

section

variable {s t u : State} {n : Name} {r : Record} {c : ClientId} {i : SlotId} {m : Mode}

theorem SlotsAlike.refl (s : State) : SlotsAlike s s := fun _ _ => rfl

theorem SlotsAlike.trans (h : SlotsAlike s t) (k : SlotsAlike t u) : SlotsAlike s u := fun c i => (k c i).trans (h c i)

theorem State.applyRecall_slotsAlike (s : State) (grace : Half) (h : Holder) (b : Bool) :
    SlotsAlike s (s.applyRecall grace h b) := by
  intro c i
  by_cases e : h.client = c ∧ h.slot = i
  · obtain ⟨rfl, rfl⟩ := e
    rw [s.slot_applyRecall_self, Slot.core_afterEval]
  · rw [s.slot_applyRecall_of_ne grace h b e]

theorem State.recallEach_slotsAlike (s : State) (grace : Half) (f : Holder → Bool) (hs : List Holder) :
    SlotsAlike s (s.recallEach grace f hs) := by
  induction hs generalizing s with
  | nil => exact .refl s
  | cons h hs ih => exact (s.applyRecall_slotsAlike grace h (f h)).trans (ih _)

/-- Recall evaluation recalls and withdraws, and changes no slot otherwise (R78). -/
theorem State.evalRecall_slotsAlike (s : State) (n : Name) : SlotsAlike s (s.evalRecall n) := by
  cases hr : s.find n with
  | none => rw [State.evalRecall, hr]; exact .refl s
  | some r => rw [State.evalRecall_eq hr]; exact s.recallEach_slotsAlike _ _ _

theorem State.evalRecall_kept (s : State) (n : Name) : RecallKept s (s.evalRecall n) := by
  cases hr : s.find n with
  | none => rw [State.evalRecall, hr]; exact .refl s
  | some r => exact State.evalRecall_recallKept hr

/-! ### Operations that keep the agreement -/

theorem Linked.alike (h : Linked s) (hrec : t.records = s.records) (halike : SlotsAlike s t) (hctx : ContextsKept s t) :
    Linked t :=
  h.congr hrec (fun c i => Slot.wait_of_core (halike c i)) (fun c i => Slot.holding_of_core (halike c i))
    fun c _ _ => hctx.priority c

/-- The change queues, the channels and the generation counter are not seen. -/
theorem Linked.same (h : Linked s) (hrec : t.records = s.records) (hslot : ∀ c i, t.slot c i = s.slot c i)
    (hctx : ContextsKept s t) : Linked t := h.alike hrec (fun c i => by rw [hslot]) hctx

theorem Linked.post (h : Linked s) (c : ClientId) (i : SlotId) (k : EntryClass) : Linked (s.post c i k) :=
  h.same rfl (fun d j => s.slot_post c d i j k) (s.post_recallKept c i k).client

theorem State.clients_holderEnd (s : State) (n : Name) : (s.holderEnd n).clients = s.clients := by
  unfold State.holderEnd
  split <;> rfl

theorem State.records_holderEnd (s : State) (n : Name) : (s.holderEnd n).records = s.records := by
  unfold State.holderEnd
  split <;> rfl

theorem Linked.holderEnd (h : Linked s) (n : Name) : Linked (s.holderEnd n) :=
  h.same (s.records_holderEnd n) (State.slot_of_clients (s.clients_holderEnd n)) (.of_clients (s.clients_holderEnd n))

theorem Linked.evalRecall (h : Linked s) (n : Name) : Linked (s.evalRecall n) :=
  h.alike (s.evalRecall_kept n).records (s.evalRecall_slotsAlike n) (s.evalRecall_kept n).client

theorem Linked.grantLoop (own : Option ClientId) (n : Name) (ws : List Waiter) : ∀ {s : State} {r : Record}, Linked s →
    s.find n = some r → r.waiters = ws → Linked (grantLoop own n ws s) := by
  induction ws with
  | nil => exact fun h _ _ => h
  | cons w ws ih =>
    intro s r h hr hws
    simp only [Machine.grantLoop, hr]
    cases hc : r.compatible w.mode with
    | false => exact h
    | true =>
      refine ih (r := r.afterGrants [(w, s.drawn)] ws) (h.grant hr hws hc own) ?_ rfl
      rw [State.find_grant hr, if_pos rfl]

theorem Linked.grantPass (h : Linked s) (own : Option ClientId) (n : Name) : Linked (s.grantPass own n) := by
  unfold State.grantPass
  split
  · next r hr => exact .grantLoop own n r.waiters h hr rfl
  · exact h

theorem State.find_removeRecord (s : State) (n k : Name) :
    (s.removeRecord n).find k = if k = n then none else s.find k := by
  unfold State.find
  rw [s.records_removeRecord, List.find?_filter]
  split
  · next e => subst e; simp
  · next e =>
    refine congrArg (s.records.find? ·) (funext fun x => ?_)
    by_cases hx : x.name = k
    · simp [hx, e]
    · simp [hx]

/-- The removal of a record without holders and waiters (R17). -/
theorem Linked.removeRecord (h : Linked s) (hempty : ∀ r, s.find n = some r → r.holders = [] ∧ r.waiters = []) :
    Linked (s.removeRecord n) := by
  have hclients := s.clients_removeRecord n
  have hslot := State.slot_of_clients hclients
  have hclient := State.client_of_clients hclients
  have hrecords := s.records_removeRecord n
  have hfind := s.find_removeRecord n
  refine ⟨hrecords ▸ h.ascending.filter _, hrecords ▸ (List.length_filter_le _ _).trans h.capacity, fun k r hr => ?_,
    fun c i k m hx => ?_, fun c i k m g hx => ?_⟩
  · rw [hfind] at hr
    split at hr
    · cases hr
    · have hs := h.record k r hr
      exact { hs with
        waiters := fun w hw => by rw [hslot, hclient]; exact hs.waiters w hw
        holders := fun x hx => by rw [hslot]; exact hs.holders x hx }
  · rw [hslot] at hx
    obtain ⟨r, hr, hmem⟩ := h.waiting c i k m hx
    refine ⟨r, ?_, hclient c ▸ hmem⟩
    rw [hfind, if_neg]
    · exact hr
    · rintro rfl
      rw [(hempty r hr).2] at hmem
      cases hmem
  · rw [hslot] at hx
    obtain ⟨r, hr, hmem⟩ := h.holding c i k m g hx
    refine ⟨r, ?_, hmem⟩
    rw [hfind, if_neg]
    · exact hr
    · rintro rfl
      rw [(hempty r hr).1] at hmem
      cases hmem

/-- A follow-up (R47). -/
theorem Linked.followUp (h : Linked s) (n : Name) : Linked (s.followUp n) := by
  cases hr : s.find n with
  | none => rw [State.followUp_of_find_none hr]; exact h
  | some r =>
    by_cases hd : r.state = .draining ∧ r.holders = []
    · rw [State.followUp_of_done hr hd]
      refine h.removeRecord fun q hq => ?_
      cases hr.symm.trans hq
      exact ⟨hd.2, (h.record n r hr).draining hd.1⟩
    · rw [State.followUp_of_kept hr hd]
      exact (h.grantPass none n).evalRecall n

/-- A wait that ends (R13, R35, R53). -/
theorem Linked.endWait (h : Linked s) (c : ClientId) (i : SlotId) (cause : EndCause) : Linked (s.endWait c i cause) := by
  unfold State.endWait
  split
  · next hs => exact (h.leaveQueue hs rfl).post c i .urgent
  · exact h

theorem Linked.retireWaiters (ws : List Waiter) (h : Linked s) : Linked (s.retireWaiters ws) :=
  List.foldlRecOn ws _ (motive := Linked) h fun _ hu w _ => hu.endWait w.client w.slot .retired

end

end Sys2Proof.Machine
end

section
/-! PROOFS. The grant pass of an admitted ACQUIRE (R49), and the try that leaves no trace (R50). -/

namespace Sys2Proof.Machine

open Sys2Proof.Claims Sys2Proof.Safety

/-! ### The generation drawn -/

section

variable {s t : State}

theorem holdingGens_congr {x y : Client} (h : ∀ i : SlotId, x.slots[i].holdingGen = y.slots[i].holdingGen) :
    x.slots.toList.filterMap Slot.holdingGen = y.slots.toList.filterMap Slot.holdingGen := by
  have hmap : x.slots.toList.map Slot.holdingGen = y.slots.toList.map Slot.holdingGen := by
    refine List.ext_getElem (by simp) fun k hk hk' => ?_
    rw [List.length_map, Vector.length_toList] at hk
    simpa using h ⟨k, hk⟩
  have hid (l : List Slot) : l.filterMap Slot.holdingGen = (l.map Slot.holdingGen).filterMap id := by
    rw [List.filterMap_map]
    rfl
  rw [hid, hmap, ← hid]

/-- The generations that are held are read from the slots. -/
theorem State.heldGenerations_congr (h : ∀ c i, (t.slot c i).holdingGen = (s.slot c i).holdingGen) :
    t.heldGenerations = s.heldGenerations := by
  have hmap : t.clients.toList.map (fun c => c.slots.toList.filterMap Slot.holdingGen) =
      s.clients.toList.map fun c => c.slots.toList.filterMap Slot.holdingGen := by
    refine List.ext_getElem (by simp) fun k hk hk' => ?_
    rw [List.length_map, Vector.length_toList] at hk
    rw [List.getElem_map, List.getElem_map, Vector.getElem_toList, Vector.getElem_toList]
    exact holdingGens_congr (x := t.client ⟨k, hk⟩) (y := s.client ⟨k, hk⟩) (h ⟨k, hk⟩)
  unfold State.heldGenerations
  rw [List.flatMap_def, hmap, ← List.flatMap_def]

/-- The draw depends on the counter and on the generations that are held (R116). -/
theorem State.drawn_congr (h : ∀ c i, (t.slot c i).holdingGen = (s.slot c i).holdingGen) (hg : t.generation = s.generation) :
    t.drawn = s.drawn := by
  unfold State.drawn
  rw [State.heldGenerations_congr h, hg]

end

/-! ### The grant pass after an entry has joined -/

section

variable {s : State} {c : ClientId} {n : Name} {r : Record} {i : SlotId} {m : Mode} {own : Option ClientId}

/-- A grant pass that finds an incompatible head grants nothing (R45). -/
theorem State.grantPass_of_stuck (hr : s.find n = some r) (h : HeadIncompatible r) : s.grantPass own n = s := by
  simp only [State.grantPass, hr]
  cases hws : r.waiters with
  | nil => rfl
  | cons w ws =>
    have hstuck : r.compatible w.mode = false := h w (by rw [hws]; rfl)
    simp only [Machine.grantLoop, hr, hstuck]
    rfl

/-- More holders make no head compatible (R43). -/
theorem headIncompatible_afterGrants (h : HeadIncompatible r) (gs : List (Waiter × Gen)) :
    HeadIncompatible (r.afterGrants gs r.waiters) := fun w hw =>
  Bool.eq_false_iff.mpr fun hc => Bool.eq_false_iff.mp (h w hw)
    (Record.compatible_of_sublist (q := r.afterGrants gs r.waiters) (List.sublist_append_left _ _) le_rfl hc)

/-- The record of a resource after an entry has joined its queue. -/
def State.joined (s : State) (c : ClientId) (i : SlotId) (m : Mode) (r : Record) : Record :=
  { r with waiters := insertWaiter (s.entry c i m) r.waiters }

theorem State.find_enqueue_self (hr : s.find n = some r) : (s.enqueue c i n m).find n = some (s.joined c i m r) := by
  rw [s.find_enqueue, if_pos rfl, hr]
  rfl

theorem State.isRecalled_grantedSlot (s : State) (n : Name) (w : Waiter) (rest : List Waiter) :
    (s.grantedSlot n w rest).isRecalled = false := by
  unfold State.grantedSlot
  dsimp only
  split
  · split <;> rfl
  · rfl

theorem insertWaiter_of_urgent {w : Waiter} {ws : List Waiter} (h : ∀ x ∈ ws, w.priority < x.priority) :
    insertWaiter w ws = w :: ws := by
  cases ws with
  | nil => rfl
  | cons x ws => exact if_neg (not_le_of_gt (h x List.mem_cons_self))

/-- R49: an entry that is compatible and more urgent than every waiter is granted, and no other. -/
theorem State.grantPass_enqueue_of_granted (hr : s.find n = some r) (hstuck : HeadIncompatible r)
    (h : GrantedAtOnce s c r m) : (s.enqueue c i n m).grantPass own n =
      (s.enqueue c i n m).grant own n (s.entry c i m) r.waiters := by
  obtain ⟨hc, hurgent⟩ := h
  have hfound := State.find_enqueue_self (c := c) (i := i) (m := m) hr
  have hwaiters : (s.joined c i m r).waiters = s.entry c i m :: r.waiters := insertWaiter_of_urgent hurgent
  have hcompat : (s.joined c i m r).compatible m = true := hc
  have hnext : ((s.enqueue c i n m).grant own n (s.entry c i m) r.waiters).find n =
      some (r.afterGrants [(s.entry c i m, (s.enqueue c i n m).drawn)] r.waiters) := by
    rw [State.find_grant hfound, if_pos rfl]
    rfl
  have hrest := State.grantPass_of_stuck (own := own) hnext (headIncompatible_afterGrants hstuck _)
  have hloop : (s.enqueue c i n m).grantPass own n =
      grantLoop own n r.waiters ((s.enqueue c i n m).grant own n (s.entry c i m) r.waiters) := by
    simp only [State.grantPass, hfound, hwaiters, Machine.grantLoop]
    exact if_pos hcompat
  rw [hloop]
  simp only [State.grantPass, hnext] at hrest
  exact hrest

/-- R49: an entry that is not compatible, or is not more urgent than every waiter, is not granted, and no other is. -/
theorem State.grantPass_enqueue_of_not_granted (hr : s.find n = some r) (hord : QueueOrdered r)
    (hstuck : HeadIncompatible r) (h : ¬ GrantedAtOnce s c r m) :
    (s.enqueue c i n m).grantPass own n = s.enqueue c i n m := by
  refine State.grantPass_of_stuck (State.find_enqueue_self hr) ?_
  obtain ⟨pre, post, hsplit, hins, hpre, hpost⟩ := insertWaiter_split (s.entry c i m) hord
  have hjoined : (s.joined c i m r).waiters = pre ++ s.entry c i m :: post := hins
  intro w hw
  rw [hjoined] at hw
  cases pre with
  | nil =>
    cases hw
    refine Bool.eq_false_iff.mpr fun hc => h ⟨hc, fun y hy => ?_⟩
    rw [hsplit] at hy
    exact hpost y hy
  | cons y pre =>
    cases hw
    exact hstuck _ (by rw [hsplit]; rfl)

/-! ### The three outcomes of an entry that waits on -/

/-- What an ACQUIRE that is not granted at once leaves before recall evaluation. -/
structure Waited (s : State) (c : ClientId) (i : SlotId) (t : State) : Prop where
  own : (t.slot c i).holding = none
  other : ∀ d j, ¬ (c = d ∧ i = j) → t.slot d j = s.slot d j
  generation : t.generation = s.generation

theorem State.enqueue_waited (s : State) (c : ClientId) (i : SlotId) (n : Name) (m : Mode) :
    Waited s c i (s.enqueue c i n m) where
  own := by rw [s.slot_enqueue, if_pos ⟨rfl, rfl⟩]; rfl
  other d j h := by rw [s.slot_enqueue, if_neg h]
  generation := rfl

theorem Waited.setSlot {t : State} {x : Slot} (h : Waited s c i t) (hx : x.holding = none) : Waited s c i (t.setSlot c i x) where
  own := by rw [State.slot_setSlot, if_pos ⟨rfl, rfl⟩]; exact hx
  other d j hne := by rw [State.slot_setSlot, if_neg hne, h.other d j hne]
  generation := h.generation

/-- The answer from a WAITING slot leaves one of three states to recall evaluation (R48 to R51). -/
theorem Waited.answerAcquire {t : State} {limit : Half} {k : Nat} (h : Waited s c i t) (hw : (t.slot c i).isWaiting = true) :
    ∃ u, (t.answerAcquire c i n m limit k).1 = u.evalRecall n ∧ Waited s c i u := by
  rw [State.answerAcquire_of_waiting hw]
  split
  · have hleft : Waited s c i (t.leaveQueue n c i) := ⟨h.own, h.other, h.generation⟩
    exact ⟨_, rfl, hleft.setSlot rfl⟩
  · split
    · exact ⟨t, rfl, h⟩
    · exact ⟨_, rfl, h.setSlot rfl⟩

/-- The answer from a granted slot leaves all to recall evaluation (R48). -/
theorem State.answerAcquire_of_holding {t : State} {limit : Half} {k : Nat} {y : Name × Mode × Gen}
    (h : (t.slot c i).holding = some y) (hnew : (t.slot c i).isRecalled = false) :
    (t.answerAcquire c i n m limit k).1 = t.evalRecall n := by
  unfold State.answerAcquire
  cases hx : t.slot c i with
  | gating | held => rfl
  | recalled => rw [hx] at hnew; cases hnew
  | free | waiting | ended => rw [hx] at h; cases h

end

theorem slot_completed (t : State) (p : Port) (r : Request) (st : Status) (pl : Payload) (c : ClientId) (i : SlotId) :
    (completed t p r st pl).slot c i = t.slot c i := by
  have hcached := t.slot_setClient_of_slots r.header.client (x := { t.client r.header.client with
    cache := some { seq := r.header.seq, kind := bodyKind r.body, check := requestCheck r, answer := answerFor r st pl } }) rfl c i
  exact hcached

/-- Settles O32: the entry that is granted at once is the head of the queue, and the old head stays incompatible behind it. -/
theorem acquireGrantsAtMostItsOwnEntry : Obligations.AcquireGrantsAtMostItsOwnEntry := by
  intro s p h n mode limit m r hagree hnew hpass hm hr
  obtain ⟨r', i, hr', -, hfree, hcarry⟩ := carryAcquire_admitted hpass hm
  cases hr.symm.trans hr'
  have hcarry := hcarry limit
  have hlinked := ListsAgree.linked hagree
  obtain ⟨-, -, -, -, -, hsettled⟩ := hagree
  obtain ⟨hstuck, -⟩ := hsettled r (State.mem_of_find hr)
  have hwaited := s.enqueue_waited h.client i n m
  generalize (s.enqueue h.client i n m).position n h.client i = k at hcarry
  obtain ⟨⟨t, st, pl⟩, hres⟩ : ∃ x, carryAcquire h.client n mode limit s = x := ⟨_, rfl⟩
  have ht := congrArg Prod.fst (hcarry.symm.trans hres)
  refine ⟨_, i, exec_acquire_new hnew hres, hfree, ?_⟩
  simp only [slot_completed]
  change _ ∧ (_ → _ ∧ t.generation = _) ∧ _
  by_cases hgrant : GrantedAtOnce s h.client r m
  · have hdrawn : (s.enqueue h.client i n m).drawn = s.drawn := by
      refine State.drawn_congr (fun d j => ?_) rfl
      by_cases hne : h.client = d ∧ i = j
      · obtain ⟨rfl, rfl⟩ := hne
        rw [s.slot_enqueue, if_pos ⟨rfl, rfl⟩, hfree.1]
        rfl
      · rw [hwaited.other d j hne]
    have hslot := (s.enqueue h.client i n m).slot_grant (some h.client) n (s.entry h.client i m) r.waiters
    have hown : (((s.enqueue h.client i n m).grant (some h.client) n (s.entry h.client i m) r.waiters).slot h.client i).holding =
        some (n, m, s.drawn) := by
      rw [hslot, if_pos ⟨rfl, rfl⟩, State.holding_grantedSlot, hdrawn]
      rfl
    have hnew : (((s.enqueue h.client i n m).grant (some h.client) n (s.entry h.client i m) r.waiters).slot h.client i).isRecalled =
        false := by
      rw [hslot, if_pos ⟨rfl, rfl⟩, State.isRecalled_grantedSlot]
    rw [State.grantPass_enqueue_of_granted hr hstuck hgrant, State.answerAcquire_of_holding hown hnew] at ht
    subst ht
    refine ⟨fun _ => (Slot.holding_of_core (State.evalRecall_slotsAlike _ n _ _)).trans hown, fun hno => absurd hgrant hno,
      fun d j hne => (Slot.holding_of_core (State.evalRecall_slotsAlike _ n _ _)).trans ?_⟩
    have hne' : ¬ ((s.entry h.client i m).client = d ∧ (s.entry h.client i m).slot = j) := fun e => hne ⟨e.1.symm, e.2.symm⟩
    rw [hslot, if_neg hne', hwaited.other d j hne']
  · rw [State.grantPass_enqueue_of_not_granted hr (hlinked.record n r hr).ordered hstuck hgrant] at ht
    obtain ⟨u, hu, hleft⟩ := hwaited.answerAcquire (n := n) (m := m) (limit := limit) (k := k)
      (by rw [s.slot_enqueue, if_pos ⟨rfl, rfl⟩]; rfl)
    obtain rfl := ht.symm.trans hu
    refine ⟨fun hyes => absurd hyes hgrant, fun _ => ⟨(Slot.holding_of_core (u.evalRecall_slotsAlike n _ _)).trans hleft.own, ?_⟩,
      fun d j hne => (Slot.holding_of_core (u.evalRecall_slotsAlike n _ _)).trans ?_⟩
    · exact (u.evalRecall_kept n).generation.trans hleft.generation
    · rw [hleft.other d j fun e => hne ⟨e.1.symm, e.2.symm⟩]

/-! ### A try that is not granted -/

section

variable {s : State} {c : ClientId} {n : Name} {r : Record} {i : SlotId} {m : Mode}

theorem State.setSlot_setSlot (s : State) (c : ClientId) (i : SlotId) (x y : Slot) :
    (s.setSlot c i x).setSlot c i y = s.setSlot c i y := by
  have hclient : (s.setSlot c i x).client c = { s.client c with slots := (s.client c).slots.set i x } := by
    rw [State.client_setSlot, if_pos rfl]
  unfold State.setSlot at hclient ⊢
  rw [hclient, State.setClient_setClient, Vector.set_set]

theorem dropWaiter_insertWaiter {w : Waiter} {ws : List Waiter} (h : ∀ x ∈ ws, ¬ (x.client = w.client ∧ x.slot = w.slot)) :
    (insertWaiter w ws).filter (fun x => !(x.client == w.client && x.slot == w.slot)) = ws := by
  have hkeep (l : List Waiter) (hl : ∀ x ∈ l, ¬ (x.client = w.client ∧ x.slot = w.slot)) :
      l.filter (fun x => !(x.client == w.client && x.slot == w.slot)) = l :=
    List.filter_eq_self.mpr fun x hx => by simpa [imp_iff_not_or] using hl x hx
  induction ws with
  | nil => simp [insertWaiter]
  | cons x ws ih =>
    obtain ⟨hx, hws⟩ := List.forall_mem_cons.mp h
    unfold insertWaiter
    split
    · rw [List.filter_cons_of_pos (by simpa [imp_iff_not_or] using hx), ih hws]
    · rw [List.filter_cons_of_neg (by simp), hkeep _ h]

/-- An entry that joins a queue and leaves it again leaves no trace (R50). -/
theorem Linked.leaveQueue_enqueue (h : Linked s) (hfree : s.slot c i = .free) :
    ((s.enqueue c i n m).leaveQueue n c i).setSlot c i .free = s := by
  have hrecords : ((s.enqueue c i n m).leaveQueue n c i).records = s.records := by
    unfold State.leaveQueue State.enqueue State.updateRecord
    dsimp only
    rw [List.map_map]
    refine (List.map_congr_left fun r hr => ?_).trans (List.map_id _)
    rw [Function.comp_apply, id]
    by_cases e : r.name = n
    · have hnone := h.not_waiter_of_wait_none (State.find_of_mem h.ascending hr) (c := c) (i := i) (by rw [hfree]; rfl)
      have hdrop := dropWaiter_insertWaiter (w := ⟨c, i, m, (s.client c).priority⟩)
        fun x hx e => hnone x hx ⟨e.1.symm, e.2.symm⟩
      simp only [if_pos e, Record.dropWaiter, hdrop]
    · simp only [if_neg e]
  calc ((s.enqueue c i n m).leaveQueue n c i).setSlot c i .free
      = { (s.setSlot c i (.waiting n m none)).setSlot c i .free with
          records := ((s.enqueue c i n m).leaveQueue n c i).records } := rfl
    _ = s := by
        have hback : (s.setSlot c i (.waiting n m none)).setSlot c i .free = s := by
          rw [State.setSlot_setSlot, ← hfree, State.setSlot_slot]
        rw [hback, hrecords]

end

/-- Settles O33: the entry is not granted, and leaves the queue as it found it. -/
theorem failedTryLeavesNoTrace : Obligations.FailedTryLeavesNoTrace := by
  intro s p h n mode limit m r hagree heval hfresh hpass hm hr hlimit hgrant
  obtain ⟨r', i, hr', -, hfree, hcarry⟩ := carryAcquire_admitted hpass hm
  cases hr.symm.trans hr'
  have hlinked := ListsAgree.linked hagree
  obtain ⟨-, -, -, -, -, hsettled⟩ := hagree
  obtain ⟨hstuck, -⟩ := hsettled r (State.mem_of_find hr)
  have hwaits : ((s.enqueue h.client i n m).slot h.client i).isWaiting = true := by
    rw [s.slot_enqueue, if_pos ⟨rfl, rfl⟩]
    rfl
  have hstate : ((s.enqueue h.client i n m).client h.client).state = (s.client h.client).state :=
    (Moves.enqueue (W := fun _ _ => True) s h.client i n m trivial).contextsKept.state h.client
  refine completes_of_fresh rfl hfresh nofun ((hcarry limit).trans ?_)
  rw [State.grantPass_enqueue_of_not_granted hr (hlinked.record n r hr).ordered hstuck hgrant,
    State.answerAcquire_of_waiting hwaits, hstate, if_pos hlimit, hlinked.leaveQueue_enqueue hfree.1, heval]

end Sys2Proof.Machine
end

section
/-! PROOFS. RETIRE (R12 to R17): the ends of a record's holders and waiters. -/

namespace Sys2Proof.Machine

open Sys2Proof.Claims Sys2Proof.Safety

/-! ### Entries that a posting keeps -/

section

variable {i j : SlotId} {k : EntryClass} {q : List Entry} {e : Entry}

theorem mem_insertUrgent_of_mem (h : e ∈ q) : e ∈ insertUrgent j q := by
  induction q with
  | nil => cases h
  | cons a q ih =>
    unfold insertUrgent
    split
    · obtain rfl | h := List.mem_cons.mp h
      · exact List.mem_cons_self
      · exact List.mem_cons_of_mem _ (ih h)
    · exact List.mem_cons_of_mem _ h

/-- The entry of another slot stands at a posting. -/
theorem mem_postEntry_of_ne (h : e ∈ q) (hne : e.slot ≠ j) : e ∈ postEntry j k q := by
  unfold postEntry
  split
  · exact mem_insertUrgent_of_mem h
  · exact List.mem_append_left _ h
  · exact h
  · exact mem_insertUrgent_of_mem (List.mem_filter.mpr ⟨h, by simpa using hne⟩)
  · exact h

/-- A slot posted urgent has an urgent entry (R105). -/
theorem mem_postEntry_urgent (i : SlotId) (q : List Entry) : (⟨i, .urgent⟩ : Entry) ∈ postEntry i .urgent q := by
  unfold postEntry
  split
  · exact mem_insertUrgent i q
  · next hk => cases hk
  · next a hfound =>
    have hslot : a = i := by simpa using List.find?_some hfound
    exact hslot ▸ List.mem_of_find?_eq_some hfound
  · exact mem_insertUrgent i _
  · next hk => cases hk

/-- An urgent entry stands at every posting (R105). -/
theorem urgent_mem_postEntry (h : (⟨i, .urgent⟩ : Entry) ∈ q) : (⟨i, .urgent⟩ : Entry) ∈ postEntry j k q := by
  by_cases e : i = j
  · subst e
    cases k with
    | urgent => exact mem_postEntry_urgent i q
    | ordinary =>
      unfold postEntry
      split
      · next hk => cases hk
      · exact List.mem_append_left _ h
      · exact h
      · next hk => cases hk
      · exact h
  · exact mem_postEntry_of_ne h e

/-- A slot that has an entry has one after every posting. -/
theorem exists_mem_postEntry_of_exists (h : ∃ e ∈ q, e.slot = i) : ∃ e ∈ postEntry j k q, e.slot = i := by
  obtain ⟨e, he, rfl⟩ := h
  by_cases hne : e.slot = j
  · exact hne ▸ exists_mem_postEntry _ k q
  · exact ⟨e, mem_postEntry_of_ne he hne, rfl⟩

end

/-! ### Ends of slots of one resource -/

/-- The slots at some places have ended, in the entries and the slots of one resource: each is as the list says and has an
urgent entry; no other slot changes, no other record, and no urgent entry is lost. -/
structure EndedAt (n : Name) (ps : List (ClientId × SlotId × Slot)) (s t : State) : Prop where
  ended : ∀ x ∈ ps, t.slot x.1 x.2.1 = x.2.2 ∧ (⟨x.2.1, .urgent⟩ : Entry) ∈ (t.client x.1).queue
  kept : ∀ c i, (∀ x ∈ ps, ¬ (x.1 = c ∧ x.2.1 = i)) → t.slot c i = s.slot c i
  urgent : ∀ c i, (⟨i, .urgent⟩ : Entry) ∈ (s.client c).queue → (⟨i, .urgent⟩ : Entry) ∈ (t.client c).queue
  generation : t.generation = s.generation
  records : t.records.filter (fun x => x.name != n) = s.records.filter fun x => x.name != n
  gate : t.gateOf n = s.gateOf n

section

variable {s t u : State} {n : Name} {r : Record} {ps qs : List (ClientId × SlotId × Slot)}

theorem EndedAt.refl (n : Name) (s : State) : EndedAt n [] s s where
  ended := nofun
  kept _ _ _ := rfl
  urgent _ _ h := h
  generation := rfl
  records := rfl
  gate := rfl

theorem EndedAt.append (h : EndedAt n ps s t) (k : EndedAt n qs t u)
    (hne : ∀ x ∈ ps, ∀ y ∈ qs, ¬ (y.1 = x.1 ∧ y.2.1 = x.2.1)) : EndedAt n (ps ++ qs) s u where
  ended x hx := by
    obtain hx | hx := List.mem_append.mp hx
    · obtain ⟨hslot, hmem⟩ := h.ended x hx
      exact ⟨(k.kept _ _ (hne x hx)).trans hslot, k.urgent _ _ hmem⟩
    · exact k.ended x hx
  kept c i hci := (k.kept c i fun x hx => hci x (List.mem_append_right _ hx)).trans
    (h.kept c i fun x hx => hci x (List.mem_append_left _ hx))
  urgent c i hmem := k.urgent c i (h.urgent c i hmem)
  generation := k.generation.trans h.generation
  records := k.records.trans h.records
  gate := k.gate.trans h.gate

/-- A record of another name is found as before. -/
theorem State.find_of_filter (h : t.records.filter (fun x => x.name != n) = s.records.filter fun x => x.name != n) {k : Name}
    (hk : k ≠ n) : t.find k = s.find k := by
  have hfind (u : State) : u.find k = (u.records.filter fun x => x.name != n).find? fun x => x.name == k := by
    rw [List.find?_filter]
    refine congrArg (u.records.find? ·) (funext fun x => ?_)
    by_cases hx : x.name = k
    · simp [hx, hk]
    · simp [hx]
  rw [hfind, hfind, h]

theorem State.filter_updateRecord (s : State) (n : Name) (f : Record → Record) (hf : ∀ r, (f r).name = r.name) :
    ((s.updateRecord n f).records.filter fun x => x.name != n) = s.records.filter fun x => x.name != n := by
  unfold State.updateRecord
  dsimp only
  induction s.records with
  | nil => rfl
  | cons r rs ih =>
    by_cases e : r.name = n
    · have hname : (f r).name = n := (hf r).trans e
      simpa [e, hname] using ih
    · simpa [e] using ih

theorem State.gateOf_updateRecord (s : State) (n : Name) (f : Record → Record) (hf : ∀ r, (f r).name = r.name)
    (hg : ∀ r, (f r).gate = r.gate) : (s.updateRecord n f).gateOf n = s.gateOf n := by
  unfold State.gateOf
  rw [s.find_updateRecord n n f hf, if_pos rfl]
  cases s.find n with
  | none => rfl
  | some r => exact hg r

/-- One slot of a resource is written and posted urgent, and its entry taken out of a list. -/
theorem State.endedAt (s : State) (n : Name) (c : ClientId) (i : SlotId) (x : Slot) (f : Record → Record)
    (hf : ∀ r, (f r).name = r.name) (hg : ∀ r, (f r).gate = r.gate) :
    EndedAt n [(c, i, x)] s (((s.updateRecord n f).setSlot c i x).post c i .urgent) where
  ended y hy := by
    obtain rfl := List.mem_singleton.mp hy
    refine ⟨by rw [State.slot_post, State.slot_setSlot, if_pos ⟨rfl, rfl⟩], ?_⟩
    rw [State.queue_post]
    exact mem_postEntry_urgent i _
  kept d j hne := by
    rw [State.slot_post, State.slot_setSlot, if_neg (hne _ List.mem_cons_self), State.updateRecord_slot]
  urgent d j hmem := by
    rw [State.post, State.client_setQueue]
    split
    · next e =>
      subst e
      rw [State.queue_setSlot]
      exact urgent_mem_postEntry hmem
    · rw [State.queue_setSlot]
      exact hmem
  generation := rfl
  records := s.filter_updateRecord n f hf
  gate := s.gateOf_updateRecord n f hf hg

theorem EndedAt.holderEnd (h : EndedAt n ps s t) : EndedAt n ps s (t.holderEnd n) := by
  have hclient := State.client_of_clients (t.clients_holderEnd n)
  have hslot := State.slot_of_clients (t.clients_holderEnd n)
  have hrecords := t.records_holderEnd n
  refine ⟨fun x hx => ?_, fun c i hci => (hslot c i).trans (h.kept c i hci), fun c i hm => ?_, ?_, by rw [hrecords]; exact h.records,
    ?_⟩
  · rw [hslot, hclient]
    exact h.ended x hx
  · rw [hclient]
    exact h.urgent c i hm
  · refine .trans ?_ h.generation
    unfold State.holderEnd
    split <;> rfl
  · refine .trans ?_ h.gate
    unfold State.gateOf
    rw [State.find_of_records hrecords]

/-! ### Waiters that end -/

/-- What a waiter's slot becomes that a RETIRE ends (R13, R16). -/
def Waiter.retired (n : Name) (w : Waiter) : ClientId × SlotId × Slot :=
  (w.client, w.slot, .ended n w.mode none .retired)

theorem Slot.eq_waiting_of_wait {x : Slot} {m : Mode} (h : x.wait = some (n, m)) : ∃ d, x = .waiting n m d := by
  cases x with
  | waiting a b d => cases h; exact ⟨d, rfl⟩
  | free | gating | held | recalled | ended => cases h

theorem endedAt_retireWaiters (ws : List Waiter) : ∀ {s : State}, (ws.map fun w => (w.client, w.slot)).Nodup →
    (∀ w ∈ ws, (s.slot w.client w.slot).wait = some (n, w.mode)) →
    EndedAt n (ws.map (Waiter.retired n)) s (s.retireWaiters ws) ∧ (s.retireWaiters ws).channels = s.channels ∧
      ∀ r, s.find n = some r → ∃ rest, (s.retireWaiters ws).find n = some { r with waiters := rest } ∧ rest ⊆ r.waiters := by
  induction ws with
  | nil => exact fun _ _ => ⟨.refl n _, rfl, fun r hr => ⟨r.waiters, hr, fun _ => id⟩⟩
  | cons w ws ih =>
    intro s hnodup hwait
    rw [List.map_cons, List.nodup_cons] at hnodup
    obtain ⟨d, hw⟩ := Slot.eq_waiting_of_wait (hwait w List.mem_cons_self)
    have hstep : EndedAt n [w.retired n] s (s.endWait w.client w.slot .retired) := by
      rw [State.endWait_of_waiting hw]
      exact s.endedAt n w.client w.slot _ _ (fun _ => rfl) fun _ => rfl
    have hne (x) (hx : x ∈ ws) : ¬ (w.client = x.client ∧ w.slot = x.slot) := fun e =>
      hnodup.1 (List.mem_map.mpr ⟨x, hx, by rw [e.1, e.2]⟩)
    obtain ⟨hrest, hchannels, hfind⟩ := ih (s := s.endWait w.client w.slot .retired) hnodup.2 fun x hx => by
      rw [hstep.kept]
      · exact hwait x (List.mem_cons_of_mem _ hx)
      · intro y hy
        obtain rfl := List.mem_singleton.mp hy
        exact hne x hx
    refine ⟨hstep.append hrest ?_, hchannels.trans ?_, fun r hr => ?_⟩
    · intro x hx y hy e
      obtain rfl := List.mem_singleton.mp hx
      obtain ⟨z, hz, rfl⟩ := List.mem_map.mp hy
      exact hne z hz ⟨e.1.symm, e.2.symm⟩
    · rw [State.endWait_of_waiting hw]
      rfl
    · have hleft : (s.endWait w.client w.slot .retired).find n = some (r.dropWaiter w.client w.slot) := by
        rw [State.endWait_of_waiting hw]
        show (s.leaveQueue n w.client w.slot).find n = _
        rw [State.find_leaveQueue, if_pos rfl, hr]
        rfl
      obtain ⟨rest, hrest, hsub⟩ := hfind _ hleft
      exact ⟨rest, hrest, fun x hx => List.mem_of_mem_filter (hsub hx)⟩

/-! ### Holders that end -/

/-- What a holder's slot becomes that a RETIRE ends: it keeps its generation (R16). -/
def Holder.retired (n : Name) (x : Holder) : ClientId × SlotId × Slot :=
  (x.client, x.slot, .ended n x.mode (some x.generation) .retired)

theorem Channel.holderEnd_holderEnd (x : Channel) : x.holderEnd.holderEnd = x.holderEnd := by
  unfold Channel.holderEnd
  cases h : x.state <;> simp [h]

/-- The holder end of a resource reaches its own channel alone (R92). -/
theorem State.channel_holderEnd (s : State) (n : Name) (g : ChannelId) :
    (s.holderEnd n).channel g = if s.gateOf n = some g then (s.channel g).holderEnd else s.channel g := by
  unfold State.holderEnd
  cases h : s.gateOf n with
  | none => rw [if_neg (by nofun)]
  | some k =>
    dsimp only
    rw [State.channel_setChannel]
    by_cases e : k = g
    · rw [if_pos e, if_pos (congrArg some e), e]
    · rw [if_neg e, if_neg fun h => e (Option.some.inj h)]

/-- One holder that ends: its slot, and the channel where the slot was leased. -/
theorem endedAt_endHolding {x : Holder} (h : (s.slot x.client x.slot).holding = some (n, x.mode, x.generation)) :
    EndedAt n [x.retired n] s (s.endHolding x.client x.slot .retired) ∧ ∀ g,
      (s.endHolding x.client x.slot .retired).channel g =
        if s.gateOf n = some g ∧ (s.slot x.client x.slot).leased = true then (s.channel g).holderEnd else s.channel g := by
  have hleave := s.endedAt n x.client x.slot (.ended n x.mode (some x.generation) .retired)
    (fun r => r.dropHolder x.client x.slot) (fun _ => rfl) fun _ => rfl
  cases hl : (s.slot x.client x.slot).leased with
  | true =>
    rw [State.endHolding_of_leased hl h]
    refine ⟨hleave.holderEnd, fun g => ?_⟩
    rw [State.channel_holderEnd]
    have hgate := hleave.gate
    unfold State.leaveHolders
    rw [hgate]
    simp only [and_true]
    rfl
  | false =>
    have hx : s.slot x.client x.slot = .gating n x.mode x.generation := by
      cases hx : s.slot x.client x.slot with
      | gating => rw [hx] at h; cases h; rfl
      | held | recalled => rw [hx] at hl; cases hl
      | free | waiting | ended => rw [hx] at h; cases h
    rw [State.endHolding_of_gating hx]
    refine ⟨hleave, fun g => ?_⟩
    rw [if_neg (by simp)]
    rfl

theorem endedAt_retireHolders (hs : List Holder) : ∀ {s : State}, (hs.map fun x => (x.client, x.slot)).Nodup →
    (∀ x ∈ hs, (s.slot x.client x.slot).holding = some (n, x.mode, x.generation)) →
    EndedAt n (hs.map (Holder.retired n)) s (s.retireHolders hs) ∧ ∀ g,
      ((s.gateOf n = some g ∧ ∃ x ∈ hs, (s.slot x.client x.slot).leased = true) →
        (s.retireHolders hs).channel g = (s.channel g).holderEnd) ∧
      (¬ (s.gateOf n = some g ∧ ∃ x ∈ hs, (s.slot x.client x.slot).leased = true) →
        (s.retireHolders hs).channel g = s.channel g) := by
  induction hs with
  | nil => exact fun _ _ => ⟨.refl n _, fun g => ⟨fun h => (by
      obtain ⟨-, x, hx, -⟩ := h
      cases hx), fun _ => rfl⟩⟩
  | cons x hs ih =>
    intro s hnodup hhold
    rw [List.map_cons, List.nodup_cons] at hnodup
    obtain ⟨hstep, hchannel⟩ := endedAt_endHolding (hhold x List.mem_cons_self)
    have hne (y) (hy : y ∈ hs) : ¬ (x.client = y.client ∧ x.slot = y.slot) := fun e =>
      hnodup.1 (List.mem_map.mpr ⟨y, hy, by rw [e.1, e.2]⟩)
    have hkept (y) (hy : y ∈ hs) : (s.endHolding x.client x.slot .retired).slot y.client y.slot = s.slot y.client y.slot :=
      hstep.kept _ _ fun z hz => by
        obtain rfl := List.mem_singleton.mp hz
        exact hne y hy
    obtain ⟨hrest, hrestChannel⟩ := ih (s := s.endHolding x.client x.slot .retired) hnodup.2 fun y hy => by
      rw [hkept y hy]
      exact hhold y (List.mem_cons_of_mem _ hy)
    have hlater : (∃ y ∈ hs, ((s.endHolding x.client x.slot .retired).slot y.client y.slot).leased = true) ↔
        ∃ y ∈ hs, (s.slot y.client y.slot).leased = true :=
      exists_congr fun y => and_congr_right fun hy => by rw [hkept y hy]
    refine ⟨hstep.append hrest ?_, fun g => ?_⟩
    · intro a ha b hb e
      obtain rfl := List.mem_singleton.mp ha
      obtain ⟨z, hz, rfl⟩ := List.mem_map.mp hb
      exact hne z hz ⟨e.1.symm, e.2.symm⟩
    · have hstepChannel := hchannel g
      obtain ⟨hyes, hno⟩ := hrestChannel g
      rw [hstep.gate, hlater] at hyes hno
      show (_ → (State.retireHolders _ hs).channel g = _) ∧ (_ → (State.retireHolders _ hs).channel g = _)
      by_cases hg : s.gateOf n = some g
      · by_cases hhead : (s.slot x.client x.slot).leased = true
        · rw [if_pos ⟨hg, hhead⟩] at hstepChannel
          refine ⟨fun _ => ?_, fun h => absurd ⟨hg, x, List.mem_cons_self, hhead⟩ h⟩
          by_cases htail : ∃ y ∈ hs, (s.slot y.client y.slot).leased = true
          · rw [hyes ⟨hg, htail⟩, hstepChannel, Channel.holderEnd_holderEnd]
          · rw [hno fun h => htail h.2, hstepChannel]
        · rw [if_neg fun h => hhead h.2] at hstepChannel
          have htail : (∃ y ∈ x :: hs, (s.slot y.client y.slot).leased = true) ↔
              ∃ y ∈ hs, (s.slot y.client y.slot).leased = true := by
            simp [hhead]
          rw [htail, ← hstepChannel]
          exact ⟨hyes, hno⟩
      · rw [if_neg fun h => hg h.1] at hstepChannel
        exact ⟨fun h => absurd h.1 hg, fun _ => (hno fun h => hg h.1).trans hstepChannel⟩

/-! ### The checks -/

section

variable {c : ClientId} {mode : Byte} {st : Status}

/-- R12: a RETIRE that fails a check. -/
theorem carryRetire_refused (h : FirstFailing (retireChecks s c n mode) st) : carryRetire c n mode s = refusal s st := by
  unfold carryRetire
  rcases h with ⟨hadm, rfl⟩ | ⟨hadm, h⟩
  · exact if_pos hadm
  rw [if_neg hadm]
  rcases h with ⟨hpar, rfl⟩ | ⟨hpar, h⟩
  · exact if_pos hpar
  rw [if_neg hpar]
  rcases h with ⟨hnone, rfl⟩ | ⟨-, h⟩
  · rw [hnone]
  · exact h.elim

/-- A RETIRE that passes every check is carried out by its mode (R12). -/
theorem carryRetire_passed (h : AllPass (retireChecks s c n mode)) (hr : s.find n = some r) :
    carryRetire c n mode s = if mode = 0#8 then s.retireGracefully r else s.retireAtOnce r := by
  simp only [AllPass, retireChecks, List.forall_mem_cons] at h
  obtain ⟨hadm, hpar, -⟩ := h
  unfold carryRetire
  rw [if_neg hadm, if_neg hpar, hr]

end

/-! ### An immediate RETIRE -/

/-- The ends of all holders and all waiters of a record (R16). -/
theorem endedAt_retireAll (h : Linked s) (hr : s.find n = some r) :
    EndedAt n (r.holders.map (Holder.retired n) ++ r.waiters.map (Waiter.retired n)) s
      ((s.retireHolders r.holders).retireWaiters r.waiters) ∧
    ((s.retireHolders r.holders).retireWaiters r.waiters).channels = (s.retireHolders r.holders).channels := by
  have hbacked := h.record n r hr
  obtain ⟨hholders, -⟩ := endedAt_retireHolders r.holders hbacked.holderPlaces hbacked.holders
  have hne (x) (hx : x ∈ r.holders) (w) (hw : w ∈ r.waiters) : ¬ (w.client = x.client ∧ w.slot = x.slot) := fun e =>
    h.not_holder_of_wait hr (hbacked.waiters w hw).1 x hx e
  obtain ⟨hwaiters, hchannels, -⟩ := endedAt_retireWaiters (n := n) (s := s.retireHolders r.holders) r.waiters
    hbacked.waiterPlaces fun w hw => by
      rw [hholders.kept]
      · exact (hbacked.waiters w hw).1
      · intro y hy e
        obtain ⟨x, hx, rfl⟩ := List.mem_map.mp hy
        exact hne x hx w hw ⟨e.1.symm, e.2.symm⟩
  refine ⟨hholders.append hwaiters fun a ha b hb => ?_, hchannels⟩
  obtain ⟨x, hx, rfl⟩ := List.mem_map.mp ha
  obtain ⟨w, hw, rfl⟩ := List.mem_map.mp hb
  exact hne x hx w hw

/-- A channel whose record is removed, its holder end reported or not (R17, R92). -/
theorem Channel.unbound_of_holderEnd {x y : Channel} (h : y = x ∨ y = x.holderEnd) : Unbound x y.unbind := by
  have hstate : y.deadTime = x.deadTime ∧ (x.state = .disconnected → y.state = .disconnected) ∧
      ∀ e, x.state = .settling e → y.state = .settling e := by
    obtain rfl | rfl := h
    · exact ⟨rfl, id, fun _ => id⟩
    · unfold Channel.holderEnd
      cases hx : x.state with
      | connected => exact ⟨rfl, nofun, nofun⟩
      | settling => exact ⟨rfl, nofun, fun e h => hx.trans h⟩
      | disconnected => exact ⟨rfl, fun _ => hx, nofun⟩
  exact ⟨rfl, hstate⟩

end

/-- Settles O53: the holders and then the waiters end one by one, and the record is removed. -/
theorem retireImmediateEndsEverything : Obligations.RetireImmediateEndsEverything := by
  intro s p h n hnew
  refine ⟨fun st hst => exec_of_carryNew rfl hnew nofun (carryRetire_refused hst), fun r hagree hpass hr => ?_⟩
  have hlinked := ListsAgree.linked hagree
  have hbacked := hlinked.record n r hr
  have hname := State.find_name hr
  have hcarry : carryRetire h.client n 1#8 s = (((s.retireHolders r.holders).retireWaiters r.waiters).removeRecord n, .ok,
      .retired .removed (r.holders.length + r.waiters.length)) := by
    rw [carryRetire_passed hpass hr, if_neg (by decide), State.retireAtOnce, hname]
  refine ⟨_, exec_of_carryNew rfl hnew nofun hcarry, ?_⟩
  obtain ⟨hended, hchannels⟩ := endedAt_retireAll hlinked hr
  have hchannel := (endedAt_retireHolders r.holders hbacked.holderPlaces hbacked.holders).2
  have houtside := (((s.retireHolders_tablesOnly r.holders).trans
    (State.retireWaiters_tablesOnly r.waiters _)).trans (State.removeRecord_tablesOnly _ n)).outsideKept
  generalize (s.retireHolders r.holders).retireWaiters r.waiters = u at hended hchannels houtside ⊢
  have hclient := State.client_of_clients (u.clients_removeRecord n)
  have hslot := State.slot_of_clients (u.clients_removeRecord n)
  have hgate : s.gateOf n = r.gate := State.gateOf_of_find hr
  have hu (g : ChannelId) : u.channel g = (s.retireHolders r.holders).channel g :=
    congrArg (fun v : Vector Channel 16 => v[g]) hchannels
  have hafter (g : ChannelId) : (u.removeRecord n).channel g =
      if r.gate = some g then ((s.retireHolders r.holders).channel g).unbind else (s.retireHolders r.holders).channel g := by
    rw [State.channel_removeRecord, hended.gate, hgate, hu]
  rw [hgate] at hchannel
  refine ⟨(u.records_removeRecord n).trans hended.records, (u.generation_removeRecord n).trans hended.generation, houtside,
    fun x hx => ?_, fun w hw => ?_, fun c i hw hx => ?_, fun g hg => ?_, fun g hg => ⟨?_, fun b hb hleased => ?_⟩⟩
  · rw [hslot, hclient]
    exact hended.ended _ (List.mem_append_left _ (List.mem_map_of_mem hx))
  · rw [hslot, hclient]
    exact hended.ended _ (List.mem_append_right _ (List.mem_map_of_mem hw))
  · rw [hslot]
    refine hended.kept c i fun y hy => ?_
    obtain hy | hy := List.mem_append.mp hy
    · obtain ⟨x, hmem, rfl⟩ := List.mem_map.mp hy
      exact hx x hmem
    · obtain ⟨w, hmem, rfl⟩ := List.mem_map.mp hy
      exact hw w hmem
  · rw [hafter, if_neg hg]
    exact (hchannel g).2 fun h => hg h.1
  · rw [hafter, if_pos hg]
    refine Channel.unbound_of_holderEnd ?_
    by_cases hl : r.gate = some g ∧ ∃ x ∈ r.holders, (s.slot x.client x.slot).leased = true
    · exact .inr ((hchannel g).1 hl)
    · exact .inl ((hchannel g).2 hl)
  · rw [hafter, if_pos hg, (hchannel g).1 ⟨hg, hleased⟩, Channel.holderEnd_of_connected hb]
    exact ⟨rfl, rfl⟩

end Sys2Proof.Machine
end

section
/-! PROOFS. A graceful RETIRE (R13, R14): the waiters end, the record drains, and every recall is withdrawn. -/

namespace Sys2Proof.Machine

open Sys2Proof.Claims Sys2Proof.Safety

section

variable {s : State} {n : Name} {r : Record}

/-! ### The postings of an evaluation -/

/-- No urgent entry is lost by the postings of an evaluation (R105). -/
theorem urgent_mem_queueAfter (posts : List (Holder × EntryClass)) {c : ClientId} {i : SlotId} {q : List Entry}
    (h : (⟨i, .urgent⟩ : Entry) ∈ q) : (⟨i, .urgent⟩ : Entry) ∈ queueAfter posts c q := by
  unfold queueAfter
  exact List.foldlRecOn _ _ (motive := fun q : List Entry => (⟨i, .urgent⟩ : Entry) ∈ q) h fun _ hq _ _ => urgent_mem_postEntry hq

/-- A holder that an evaluation posts has an entry afterwards (R105). -/
theorem exists_mem_queueAfter {posts : List (Holder × EntryClass)} {x : Holder × EntryClass} (hx : x ∈ posts) (q : List Entry) :
    ∃ e ∈ queueAfter posts x.1.client q, e.slot = x.1.slot := by
  have hmem : x ∈ posts.filter fun y => y.1.client == x.1.client := List.mem_filter.mpr ⟨hx, beq_self_eq_true _⟩
  unfold queueAfter
  generalize posts.filter (fun y => y.1.client == x.1.client) = l at hmem
  induction l generalizing q with
  | nil => cases hmem
  | cons y l ih =>
    rw [List.foldl_cons]
    obtain rfl | hmem := List.mem_cons.mp hmem
    · exact List.foldlRecOn l _ (motive := fun q : List Entry => ∃ e ∈ q, e.slot = x.1.slot) (exists_mem_postEntry _ _ q)
        fun _ hq _ _ => exists_mem_postEntry_of_exists hq
    · exact ih _ hmem

/-! ### The evaluation of a record without waiters -/

/-- Without a waiter every recall is withdrawn (R80). -/
theorem Slot.afterEval_false (due : Deadline) {x : Slot} (h : x.isRecalled = false) : x.afterEval due false = x := by
  cases x with
  | recalled => cases h
  | free | waiting | gating | held | ended => rfl

theorem State.recallCondition_of_no_waiters (h : Holder) (hw : r.waiters = []) : s.recallCondition r h = false := by
  unfold State.recallCondition
  rw [hw]

/-- What the evaluation of a record without waiters makes of a holder's slot (R80). -/
theorem State.slot_evalRecall_of_no_waiters (hl : ListsBacked s) (hr : s.find n = some r) (hw : r.waiters = []) {x : Holder}
    (hx : x ∈ r.holders) : (s.evalRecall n).slot x.client x.slot =
      (s.slot x.client x.slot).afterEval (dueIn s r.recallGrace) false := by
  rw [State.slot_evalRecall hl hr hx, State.recallCondition_of_no_waiters x hw]

/-- A recall that is withdrawn is posted (R80). -/
theorem State.changedMark_evalRecall (hl : ListsBacked s) (hr : s.find n = some r) {x : Holder} (hx : x ∈ r.holders)
    (hne : (s.evalRecall n).slot x.client x.slot ≠ s.slot x.client x.slot) :
    (s.evalRecall n).changedMark x.client x.slot = true := by
  have hposted : (x, ((s.evalRecall n).slot x.client x.slot).changeClass) ∈ changePosts s (s.evalRecall n) r.holders :=
    mem_changePosts.mpr ⟨hx, hne, rfl⟩
  rw [State.changedMark_iff, State.queue_evalRecall hl hr]
  exact exists_mem_queueAfter hposted _

/-! ### The record that drains -/

/-- The state in which the waiters of a record have ended and the record is DRAINING (R13). -/
def State.drained (s : State) (n : Name) (r : Record) : State :=
  (s.retireWaiters r.waiters).updateRecord n fun x => { x with waiters := [], state := .draining }

theorem Linked.retireWaiters_all (h : Linked s) (hr : s.find n = some r) :
    (s.retireWaiters r.waiters).find n = some { r with waiters := [] } := by
  have hbacked := h.record n r hr
  obtain ⟨hended, -, hfind⟩ := endedAt_retireWaiters (n := n) r.waiters hbacked.waiterPlaces fun w hw =>
    (hbacked.waiters w hw).1
  obtain ⟨rest, hrest, hsub⟩ := hfind r hr
  have hempty : rest = [] := by
    refine List.eq_nil_iff_forall_not_mem.mpr fun w hw => ?_
    have hwait := (((h.retireWaiters r.waiters).record n _ hrest).waiters w hw).1
    have hend : (s.retireWaiters r.waiters).slot w.client w.slot = .ended n w.mode none .retired :=
      (hended.ended _ (List.mem_map_of_mem (hsub hw))).1
    rw [hend] at hwait
    cases hwait
  rw [hrest, hempty]

theorem State.find_drained (h : Linked s) (hr : s.find n = some r) :
    (s.drained n r).find n = some { r with state := .draining, waiters := [] } := by
  unfold State.drained
  rw [State.find_updateRecord]
  · rw [if_pos rfl, h.retireWaiters_all hr]
    rfl
  · exact fun _ => rfl

theorem Linked.drained (h : Linked s) (hr : s.find n = some r) : Linked (s.drained n r) := by
  have hbacked := h.record n r hr
  have hfind := h.retireWaiters_all hr
  refine (h.retireWaiters r.waiters).rewrite (q := { r with state := .draining, waiters := [] }) hfind (fun k => ?_) ?_ rfl rfl rfl
    hbacked.fields hbacked.limits fun _ => rfl
  · unfold State.drained
    rw [State.find_updateRecord]
    · rw [hfind]
      rfl
    · exact fun _ => rfl
  · exact State.names_updateRecord _ n _ fun _ => rfl

end

/-- Settles O52: by the state of the record and its holders; a held record drains, and is evaluated without waiters. -/
theorem retireGracefulDrains : Obligations.RetireGracefulDrains := by
  intro s p h n mode hnew
  refine ⟨fun st _ hst => exec_of_carryNew rfl hnew nofun (carryRetire_refused hst), fun r hmode hpass hr => ?_⟩
  have hname := State.find_name hr
  have hcarry : carryRetire h.client n mode s = s.retireGracefully r := by
    rw [carryRetire_passed hpass hr, if_pos hmode]
  unfold State.retireGracefully at hcarry
  rw [hname] at hcarry
  refine ⟨fun hd => exec_of_carryNew rfl hnew nofun (hcarry.trans (if_pos hd)), fun ha hh => ?_, fun hagree ha hh => ?_⟩
  · have hactive : r.state ≠ .draining := by rw [ha]; nofun
    rw [if_neg hactive, if_pos hh] at hcarry
    refine ⟨_, exec_of_carryNew rfl hnew nofun hcarry, s.records_removeRecord n, s.clients_removeRecord n,
      s.generation_removeRecord n, (s.removeRecord_tablesOnly n).outsideKept, fun g hg => ?_, fun g hg => ?_⟩
    · rw [State.channel_removeRecord, State.gateOf_of_find hr, if_pos hg]
      exact (s.channel g).unbound_unbind
    · rw [State.channel_removeRecord, State.gateOf_of_find hr, if_neg hg]
  · have hactive : r.state ≠ .draining := by rw [ha]; nofun
    rw [if_neg hactive, if_neg hh] at hcarry
    have hlinked := ListsAgree.linked hagree
    have hbacked := hlinked.record n r hr
    obtain ⟨hended, hchannels, -⟩ := endedAt_retireWaiters (n := n) r.waiters hbacked.waiterPlaces fun w hw =>
      (hbacked.waiters w hw).1
    have hfind := State.find_drained hlinked hr
    have hlists := (hlinked.drained hr).listsBacked
    have hfilter : (s.drained n r).records.filter (fun x => x.name != n) = s.records.filter fun x => x.name != n :=
      ((s.retireWaiters r.waiters).filter_updateRecord n (fun x => { x with waiters := [], state := .draining })
        fun _ => rfl).trans hended.records
    have houtside := ((s.retireWaiters_tablesOnly r.waiters).trans (t := s.retireWaiters r.waiters)
      (u := s.drained n r) ⟨rfl, rfl, rfl, rfl⟩).trans (State.evalRecall_tablesOnly _ n)
    refine ⟨(s.drained n r).evalRecall n, exec_of_carryNew rfl hnew nofun hcarry, ?_⟩
    have hslot (c : ClientId) (i : SlotId) : (s.drained n r).slot c i = (s.retireWaiters r.waiters).slot c i := rfl
    have hqueue (c : ClientId) : ((s.drained n r).client c).queue = ((s.retireWaiters r.waiters).client c).queue := rfl
    have hgeneration : (s.drained n r).generation = s.generation := hended.generation
    have hchannels : (s.drained n r).channels = s.channels := hchannels
    have hkept := (s.drained n r).evalRecall_kept n
    generalize s.drained n r = u at hfind hlists hfilter houtside hslot hqueue hkept hgeneration hchannels ⊢
    have hwaiter (w) (hw : w ∈ r.waiters) : ∀ x ∈ r.holders, ¬ (x.client = w.client ∧ x.slot = w.slot) := fun x hx e =>
      hlinked.not_holder_of_wait hr (hbacked.waiters w hw).1 x hx ⟨e.1.symm, e.2.symm⟩
    have hother {c : ClientId} {i : SlotId} (hci : ∀ x ∈ r.holders, ¬ (x.client = c ∧ x.slot = i)) :
        (u.evalRecall n).slot c i = u.slot c i := State.slot_evalRecall_of_not_holder hfind hci
    have hplaces {c : ClientId} {i : SlotId} (hci : ∀ w ∈ r.waiters, ¬ (w.client = c ∧ w.slot = i)) : u.slot c i = s.slot c i := by
      rw [hslot]
      refine hended.kept c i fun y hy => ?_
      obtain ⟨w, hw, rfl⟩ := List.mem_map.mp hy
      exact hci w hw
    refine ⟨by rw [State.find_evalRecall, hfind], fun k hk => ?_, hkept.channels.trans hchannels, hkept.generation.trans hgeneration,
      houtside.outsideKept, fun w hw => ?_, fun x hx => ?_, fun c i hw hx => (hother hx).trans (hplaces hw)⟩
    · rw [State.find_evalRecall, State.find_of_filter hfilter hk]
    · obtain ⟨hend, hurgent⟩ := hended.ended _ (List.mem_map_of_mem hw)
      refine ⟨(hother (hwaiter w hw)).trans ((hslot _ _).trans hend), ?_⟩
      rw [State.queue_evalRecall hlists hfind, hqueue]
      exact urgent_mem_queueAfter _ hurgent
    · have hsame : u.slot x.client x.slot = s.slot x.client x.slot :=
        hplaces fun w hw e => hwaiter w hw x hx ⟨e.1.symm, e.2.symm⟩
      have heval := State.slot_evalRecall_of_no_waiters hlists hfind rfl hx
      rw [hsame] at heval
      refine ⟨fun a b g l d hrec => ?_, fun hnot => heval.trans (Slot.afterEval_false _ hnot)⟩
      rw [hrec] at heval
      refine ⟨heval, State.changedMark_evalRecall hlists hfind hx ?_⟩
      rw [heval, hsame, hrec]
      nofun

end Sys2Proof.Machine
end

section
/-! PROOFS. A port's fault at the client table (R35): the waits of its OPEN clients end, each with its follow-up. -/

namespace Sys2Proof.Machine

open Sys2Proof.Claims Sys2Proof.Safety

/-! ### What a follow-up makes of a slot -/

/-- A slot is left, or keeps what it holds, or its wait is granted. -/
def Slot.Follows (x y : Slot) : Prop :=
  y = x ∨ (∃ h, x.holding = some h ∧ y.holding = some h) ∨ ∃ n m w g, x = .waiting n m w ∧ y.holding = some (n, m, g)

theorem Slot.Follows.trans {x y z : Slot} (h : x.Follows y) (k : y.Follows z) : x.Follows z := by
  obtain rfl | ⟨a, hx, hy⟩ | ⟨n, m, w, g, rfl, hy⟩ := h
  · exact k
  · obtain rfl | ⟨b, hb, hz⟩ | ⟨n, m, w, g, rfl, -⟩ := k
    · exact .inr (.inl ⟨a, hx, hy⟩)
    · exact .inr (.inl ⟨a, hx, hz.trans (hb.symm.trans hy)⟩)
    · cases hy
  · obtain rfl | ⟨b, hb, hz⟩ | ⟨n', m', w', g', rfl, -⟩ := k
    · exact .inr (.inr ⟨n, m, w, g, rfl, hy⟩)
    · exact .inr (.inr ⟨n, m, w, g, rfl, hz.trans (hb.symm.trans hy)⟩)
    · cases hy

/-- What a slot holds it keeps. -/
theorem Slot.Follows.holding {x y : Slot} (h : x.Follows y) {a : Name × Mode × Gen} (hx : x.holding = some a) :
    y.holding = some a := by
  obtain rfl | ⟨b, hb, hy⟩ | ⟨n, m, w, g, rfl, -⟩ := h
  · exact hx
  · exact hy.trans (hb.symm.trans hx)
  · cases hx

/-- A slot that is not live is left. -/
theorem Slot.Follows.still {x y : Slot} (h : x.Follows y) (hx : x.liveName = none) : y = x := by
  obtain rfl | ⟨b, hb, -⟩ | ⟨n, m, w, g, rfl, -⟩ := h
  · rfl
  · cases (Slot.holding_of_not_live hx).symm.trans hb
  · cases hx

/-- Every slot follows, and no urgent entry is lost. -/
structure Followed (s t : State) : Prop where
  slot : ∀ c i, (s.slot c i).Follows (t.slot c i)
  urgent : ∀ c i, (⟨i, .urgent⟩ : Entry) ∈ (s.client c).queue → (⟨i, .urgent⟩ : Entry) ∈ (t.client c).queue

section

variable {s t u : State} {n : Name} {r : Record}

theorem Followed.refl (s : State) : Followed s s := ⟨fun _ _ => .inl rfl, fun _ _ => id⟩

theorem Followed.trans (h : Followed s t) (k : Followed t u) : Followed s u :=
  ⟨fun c i => (h.slot c i).trans (k.slot c i), fun c i hm => k.urgent c i (h.urgent c i hm)⟩

/-- A grant pass (R45, R107). -/
theorem GrantRun.followed {own : Option ClientId} {gs : List (Waiter × Gen)} {rest : List Waiter}
    (k : GrantRun own n s t r gs rest) (hr : s.find n = some r) (h : Linked s) : Followed s t where
  slot c i := by
    by_cases hex : ∃ x ∈ gs, x.1.client = c ∧ x.1.slot = i
    · obtain ⟨x, hx, rfl, rfl⟩ := hex
      have hmem : x.1 ∈ r.waiters := k.waiters ▸ List.mem_append_left _ (List.mem_map_of_mem hx)
      obtain ⟨d, hw⟩ := Slot.eq_waiting_of_wait ((h.record n r hr).waiters x.1 hmem).1
      obtain ⟨hsettling, hsettled⟩ := k.slot x hx
      refine .inr (.inr ⟨n, x.1.mode, d, x.2, hw, ?_⟩)
      by_cases hs : Settling s r
      · rw [hsettling hs]; rfl
      · rw [hsettled hs]; rfl
    · exact .inl (k.slotKept c i fun x hx e => hex ⟨x, hx, e⟩)
  urgent c i hm := by
    by_cases hs : Settling s r ∨ own = some c
    · rw [k.queueKept c hs]
      exact hm
    · rw [not_or] at hs
      rw [k.queue c hs.1 hs.2]
      exact List.foldlRecOn _ _ (motive := fun q : List Entry => (⟨i, .urgent⟩ : Entry) ∈ q) hm
        fun _ hq _ _ => urgent_mem_postEntry hq

/-- Recall evaluation (R78). -/
theorem Linked.evalRecall_followed (h : Linked s) (n : Name) : Followed s (s.evalRecall n) := by
  cases hr : s.find n with
  | none => rw [State.evalRecall, hr]; exact .refl s
  | some r =>
    refine ⟨fun c i => ?_, fun c i hm => ?_⟩
    · cases hx : (s.slot c i).holding with
      | none => exact .inl (State.slot_evalRecall_of_not_holder hr fun x hmem e =>
          h.not_holder_of_holding_none hr hx x hmem ⟨e.1.symm, e.2.symm⟩)
      | some a => exact .inr (.inl ⟨a, hx, (Slot.holding_of_core (s.evalRecall_slotsAlike n c i)).trans hx⟩)
    · rw [State.queue_evalRecall h.listsBacked hr]
      exact urgent_mem_queueAfter _ hm

/-- A follow-up (R47). -/
theorem Linked.followUp_followed (h : Linked s) (n : Name) : Followed s (s.followUp n) := by
  cases hr : s.find n with
  | none => rw [State.followUp_of_find_none hr]; exact .refl s
  | some r =>
    by_cases hd : r.state = .draining ∧ r.holders = []
    · rw [State.followUp_of_done hr hd]
      have hclients := s.clients_removeRecord n
      refine ⟨fun c i => .inl (State.slot_of_clients hclients c i), fun c i hm => ?_⟩
      rw [State.client_of_clients hclients]
      exact hm
    · rw [State.followUp_of_kept hr hd]
      obtain ⟨gs, rest, run⟩ := State.grantPass_run h.directoryLawful h.listsBacked hr none
      exact (run.followed hr h).trans ((h.grantPass none n).evalRecall_followed n)

/-! ### The clients one after the other -/

/-- What a fault makes of the slots, where it hits some clients (R35). -/
structure Faulted (hit : ClientId → Prop) (s t : State) : Prop where
  holding : ∀ c i x, (s.slot c i).holding = some x → (t.slot c i).holding = some x
  still : ∀ c i, (s.slot c i).liveName = none → t.slot c i = s.slot c i
  spared : ∀ c i n m w, ¬ hit c → s.slot c i = .waiting n m w →
    t.slot c i = s.slot c i ∨ ∃ g, (t.slot c i).holding = some (n, m, g)
  hitNone : ∀ c i, hit c → (t.slot c i).isWaiting = false
  hitEnds : ∀ c i n m w, hit c → s.slot c i = .waiting n m w →
    (t.slot c i = .ended n m none .link ∧ (⟨i, .urgent⟩ : Entry) ∈ (t.client c).queue) ∨
      ∃ g, (t.slot c i).holding = some (n, m, g)
  urgent : ∀ c i, (⟨i, .urgent⟩ : Entry) ∈ (s.client c).queue → (⟨i, .urgent⟩ : Entry) ∈ (t.client c).queue

variable {hit hit' : ClientId → Prop}

theorem Followed.faulted (h : Followed s t) (hnone : ∀ c, ¬ hit c) : Faulted hit s t where
  holding c i _ hx := (h.slot c i).holding hx
  still c i hx := (h.slot c i).still hx
  spared c i n m w _ hw := by
    obtain e | ⟨x, hx, -⟩ | ⟨n', m', w', g, e, hy⟩ := h.slot c i
    · exact .inl e
    · rw [hw] at hx; cases hx
    · rw [hw] at e; cases e; exact .inr ⟨g, hy⟩
  hitNone c _ hc := absurd hc (hnone c)
  hitEnds c _ _ _ _ hc := absurd hc (hnone c)
  urgent := h.urgent

/-- A slot that does not wait holds, or is not live. -/
theorem Slot.holding_or_still {x : Slot} (h : x.isWaiting = false) : (∃ a, x.holding = some a) ∨ x.liveName = none := by
  cases x with
  | waiting => cases h
  | gating n m g | held n m g l | recalled n m g l d => exact .inl ⟨(n, m, g), rfl⟩
  | free | ended => exact .inr rfl

theorem Faulted.not_waiting (h : Faulted hit s t) {c : ClientId} {i : SlotId} (hx : (s.slot c i).isWaiting = false) :
    (t.slot c i).isWaiting = false := by
  obtain ⟨a, ha⟩ | hlive := Slot.holding_or_still hx
  · exact Slot.isWaiting_of_holding (h.holding c i a ha)
  · rw [h.still c i hlive]; exact hx

theorem Faulted.trans (h : Faulted hit s t) (k : Faulted hit' t u) : Faulted (fun c => hit c ∨ hit' c) s u where
  holding c i x hx := k.holding c i x (h.holding c i x hx)
  still c i hx := by
    have ht := h.still c i hx
    exact (k.still c i (by rwa [ht])).trans ht
  spared c i n m w hc hw := by
    rw [not_or] at hc
    obtain e | ⟨g, hg⟩ := h.spared c i n m w hc.1 hw
    · rw [← e]
      exact k.spared c i n m w hc.2 (e.trans hw)
    · exact .inr ⟨g, k.holding c i _ hg⟩
  hitNone c i hc := by
    obtain hc | hc := hc
    · exact k.not_waiting (h.hitNone c i hc)
    · exact k.hitNone c i hc
  hitEnds c i n m w hc hw := by
    have hgranted (hg : ∃ g, (t.slot c i).holding = some (n, m, g)) : ∃ g, (u.slot c i).holding = some (n, m, g) :=
      hg.imp fun g hg => k.holding c i _ hg
    by_cases hfirst : hit c
    · obtain ⟨hend, hm⟩ | hg := h.hitEnds c i n m w hfirst hw
      · exact .inl ⟨(k.still c i (by rw [hend]; rfl)).trans hend, k.urgent c i hm⟩
      · exact .inr (hgranted hg)
    · obtain e | hg := h.spared c i n m w hfirst hw
      · exact k.hitEnds c i n m w (hc.resolve_left hfirst) (e.trans hw)
      · exact .inr (hgranted hg)
  urgent c i hm := k.urgent c i (h.urgent c i hm)

theorem Faulted.congr (h : Faulted hit s t) (he : ∀ c, hit' c ↔ hit c) : Faulted hit' s t := by
  obtain rfl : hit' = hit := funext fun c => propext (he c)
  exact h

/-- The state of a client context enters no slot and no change queue. -/
theorem Faulted.setState {c : ClientId} {x : ClientState} (h : Faulted hit s t) :
    Faulted hit s (t.setClient c { t.client c with state := x }) := by
  have hslot := t.slot_setClient_of_slots c (x := { t.client c with state := x }) rfl
  have hqueue (d : ClientId) : ((t.setClient c { t.client c with state := x }).client d).queue = (t.client d).queue := by
    rw [State.client_setClient]
    split
    · next e => subst e; rfl
    · rfl
  exact ⟨fun d i y hy => by rw [hslot]; exact h.holding d i y hy, fun d i hy => by rw [hslot]; exact h.still d i hy,
    fun d i => by rw [hslot]; exact h.spared d i, fun d i => by rw [hslot]; exact h.hitNone d i,
    fun d i => by rw [hslot, hqueue]; exact h.hitEnds d i, fun d i => by rw [hqueue]; exact h.urgent d i⟩

/-- The one wait of a client ends with cause LINK, and the follow-up runs (R35). -/
theorem Linked.endLink_faulted (h : Linked s) {c : ClientId} {i : SlotId} {n : Name} {m : Mode} {w : Option Deadline}
    (hw : s.slot c i = .waiting n m w) (hone : ∀ j, (s.slot c j).isWaiting = true → j = i) :
    Faulted (fun d => d = c) s ((s.endWait c i .link).followUp n) := by
  have hfollowed := (h.endWait c i .link).followUp_followed n
  have hended : EndedAt n [(c, i, .ended n m none .link)] s (s.endWait c i .link) := by
    rw [State.endWait_of_waiting hw]
    exact s.endedAt n c i _ _ (fun _ => rfl) fun _ => rfl
  have hkept {d : ClientId} {j : SlotId} (hne : ¬ (c = d ∧ i = j)) : (s.endWait c i .link).slot d j = s.slot d j :=
    hended.kept d j fun x hx => by
      obtain rfl := List.mem_singleton.mp hx
      exact hne
  obtain ⟨hend, hmem⟩ := hended.ended _ (List.mem_singleton_self _)
  have hfirst : Faulted (fun d => d = c) s (s.endWait c i .link) := by
    refine ⟨fun d j x hx => ?_, fun d j hx => ?_, fun d j n' m' w' hd hx => .inl (hkept fun e => hd e.1.symm), ?_, ?_,
      hended.urgent⟩
    · rw [hkept]
      · exact hx
      · rintro ⟨rfl, rfl⟩
        rw [hw] at hx
        cases hx
    · refine hkept ?_
      rintro ⟨rfl, rfl⟩
      rw [hw] at hx
      cases hx
    · rintro _ j rfl
      by_cases hj : i = j
      · subst hj
        rw [hend]
        rfl
      · rw [hkept fun e => hj e.2]
        exact Bool.eq_false_iff.mpr fun hx => hj (hone j hx).symm
    · rintro _ j n' m' w' rfl hx
      obtain rfl := hone j (by rw [hx]; rfl)
      cases hw.symm.trans hx
      exact .inl ⟨hend, hmem⟩
  exact (hfirst.trans (hfollowed.faulted (hit := fun _ => False) fun _ => id)).congr fun d => (or_iff_left id).symm

/-- A fault taken for one client (R35). -/
theorem Linked.faultClient_faulted (h : Linked s) (hwaits : WaitsLawful s) (p : Port) (c : ClientId) :
    Faulted (fun d => d = c ∧ openOn s p d) s (s.faultClient p c) := by
  obtain ⟨hno, e⟩ | ⟨t, hst, hpt, e, ⟨hnone, rfl⟩ | ⟨i, n, m, w, hw, rfl⟩⟩ := s.faultClient_cases p c
  · rw [e]
    refine (Followed.refl s).faulted ?_
    rintro _ ⟨rfl, hit⟩
    exact hno hit
  · rw [e]
    refine Faulted.setState ⟨fun _ _ _ => id, fun _ _ _ => rfl, fun _ _ _ _ _ _ _ => .inl rfl, ?_, ?_, fun _ _ => id⟩
    · rintro _ i ⟨rfl, -⟩
      exact hnone i
    · rintro _ i n m w ⟨rfl, -⟩ hw
      have := hnone i
      rw [hw] at this
      cases this
  · rw [e]
    have hone (j : SlotId) (hj : (s.slot c j).isWaiting = true) : j = i := (hwaits c).1 j i hj (by rw [hw]; rfl)
    refine (h.endLink_faulted hw hone).setState.congr fun d => ?_
    exact ⟨And.left, fun hd => ⟨hd, hd ▸ ⟨hst, hpt⟩⟩⟩

/-- A context rewritten with its slots and its priority. -/
theorem Linked.setClient {c : ClientId} {x : Client} (h : Linked s) (hslots : x.slots = (s.client c).slots)
    (hpriority : x.priority = (s.client c).priority) : Linked (s.setClient c x) := by
  have hslot := s.slot_setClient_of_slots c hslots
  refine Linked.congr (s := s) rfl (fun d i => by rw [hslot]) (fun d i => by rw [hslot]) (fun d _ _ => ?_) h
  rw [State.client_setClient]
  split
  · next e => subst e; exact hpriority
  · rfl

theorem Linked.faultClient (h : Linked s) (p : Port) (c : ClientId) : Linked (s.faultClient p c) := by
  obtain ⟨-, e⟩ | ⟨t, -, -, e, ⟨-, rfl⟩ | ⟨i, n, m, w, -, rfl⟩⟩ := s.faultClient_cases p c
  · rw [e]; exact h
  · rw [e]; exact h.setClient rfl rfl
  · rw [e]; exact ((h.endWait c i .link).followUp n).setClient rfl rfl

/-- A fault taken for some distinct clients (R35). -/
theorem foldl_faultClient_faulted (p : Port) {l : List ClientId} (hl : l.Nodup) : ∀ {s : State}, Linked s → WaitsLawful s →
    Faulted (fun d => d ∈ l ∧ openOn s p d) s (l.foldl (fun t c => t.faultClient p c) s) := by
  induction l with
  | nil => exact fun _ _ => (Followed.refl _).faulted fun c hc => List.not_mem_nil hc.1
  | cons c l ih =>
    intro s h hwaits
    obtain ⟨hc, hl⟩ := List.nodup_cons.mp hl
    have hsuspended := s.faultClient_suspended p c
    have hfirst := h.faultClient_faulted hwaits p c
    have hrest := ih hl (h.faultClient p c) (waitsLawful_faultClient p c hwaits)
    refine (hfirst.trans hrest).congr fun d => ?_
    by_cases hd : d = c
    · subst hd
      simp [hc]
    · have hsame : openOn (s.faultClient p c) p d ↔ openOn s p d := by
        unfold openOn
        rw [(hsuspended d).2 fun e => hd e.1]
      rw [hsame, List.mem_cons]
      simp [hd]

end

/-- Settles O28, from the contexts, the port units, and the slots of the clients taken one after the other. -/
theorem portFaultSuspendsTheClients : Obligations.PortFaultSuspendsTheClients := by
  refine ⟨fun s p => s.screenHanded_self p, ?_, fun s p hno => ?_⟩
  · intro z p s hagree hwaits hreport
    have htaken : z.takeFault p = s.suspendClients p := if_pos hreport
    refine ⟨s.suspendClients p, congrArg Host.Outcome.next htaken, ?_, fun q hq => ?_, fun c => ?_⟩
    · rw [s.port_suspendClients, if_pos rfl]
    · rw [s.port_suspendClients, if_neg fun e => hq e.symm]
    · have hlinked := ListsAgree.linked hagree
      have hstart : Linked (s.setPort p { s.port p with faultReport := false }) :=
        Linked.same (s := s) hlinked rfl (fun _ _ => rfl) (.refl s)
      have hslots := foldl_faultClient_faulted p (l := allClients) (by decide) hstart hwaits
      have hcontext := s.suspendClients_suspended p c
      have hfold : s.suspendClients p =
          allClients.foldl (fun t c => t.faultClient p c) (s.setPort p { s.port p with faultReport := false }) := rfl
      rw [← hfold] at hslots
      generalize s.suspendClients p = t at hslots hcontext ⊢
      have hhit (k : openOn s p c) : c ∈ allClients ∧ openOn (s.setPort p { s.port p with faultReport := false }) p c :=
        ⟨mem_allClients c, k⟩
      obtain ⟨hyes, hno⟩ := hcontext
      have hkept : (t.client c).port = (s.client c).port ∧ (t.client c).branch = (s.client c).branch ∧
          (t.client c).priority = (s.client c).priority ∧ (t.client c).admin = (s.client c).admin ∧
          (t.client c).cache = (s.client c).cache := by
        by_cases k : openOn s p c
        · rw [hyes k]; exact ⟨rfl, rfl, rfl, rfl, rfl⟩
        · rw [hno k]; exact ⟨rfl, rfl, rfl, rfl, rfl⟩
      obtain ⟨hport, hbranch, hpriority, hadmin, hcache⟩ := hkept
      refine ⟨hport, hbranch, hpriority, hadmin, hcache, fun k => ?_, fun k => ?_, fun i => ⟨fun k => ?_, hslots.holding c i,
        fun hx => ?_⟩⟩
      · rw [hyes k]
      · rw [hno k]
      · exact ⟨hslots.hitNone c i (hhit k), fun n m w => hslots.hitEnds c i n m w (hhit k)⟩
      · refine hslots.still c i ?_
        obtain hended | hfree := hx
        · cases hslot : s.slot c i with
          | ended => exact congrArg Slot.liveName hslot
          | free | waiting | gating | held | recalled => rw [hslot] at hended; cases hended
        · exact congrArg Slot.liveName hfree
  · exact congrArg Host.Outcome.next (if_neg (by rw [hno]; decide))

end Sys2Proof.Machine
end

section
/-! PROOFS. What an operation over one resource leaves alone: the other records and their slots; and that no slot becomes live. -/

namespace Sys2Proof.Machine

open Sys2Proof.Claims Sys2Proof.Safety

/-- Between two states nothing has changed of the records other than that of `n`, nor of the slots that name them. -/
structure Touches (n : Name) (s t : State) : Prop where
  find : ∀ k, k ≠ n → t.find k = s.find k
  slot : ∀ c i k, k ≠ n → (s.slot c i).liveName = some k → t.slot c i = s.slot c i
  contexts : ContextsKept s t

/-- Between two states an operation over the resource `n` has worked: no slot has become live or WAITING, and no rank has
changed. -/
structure Works (n : Name) (s t : State) : Prop extends Touches n s t where
  live : ∀ c i k, (t.slot c i).liveName = some k → (s.slot c i).liveName = some k
  wait : ∀ c i, (t.slot c i).isWaiting = true → (s.slot c i).isWaiting = true
  ranks : ∀ r ∈ t.records, ∃ q ∈ s.records, q.name = r.name ∧ q.rank = r.rank

section

variable {s t u : State} {n : Name} {r : Record} {c : ClientId} {i : SlotId}

theorem Works.refl (n : Name) (s : State) : Works n s s :=
  ⟨⟨fun _ _ => rfl, fun _ _ _ _ _ => rfl, .refl s⟩, fun _ _ _ => id, fun _ _ => id, fun r hr => ⟨r, hr, rfl, rfl⟩⟩

theorem Touches.trans (h : Touches n s t) (k : Touches n t u) : Touches n s u where
  find a ha := (k.find a ha).trans (h.find a ha)
  slot c i a ha hx := by
    have ht := h.slot c i a ha hx
    exact (k.slot c i a ha (by rwa [ht])).trans ht
  contexts := h.contexts.trans k.contexts

theorem Works.trans (h : Works n s t) (k : Works n t u) : Works n s u where
  toTouches := h.toTouches.trans k.toTouches
  live c i a ha := h.live c i a (k.live c i a ha)
  wait c i hx := h.wait c i (k.wait c i hx)
  ranks r hr := by
    obtain ⟨q, hq, hname, hrank⟩ := k.ranks r hr
    obtain ⟨x, hx, hname', hrank'⟩ := h.ranks q hq
    exact ⟨x, hx, hname'.trans hname, hrank'.trans hrank⟩

/-- The change queues, the channels and the counter. -/
theorem Works.same (hrec : t.records = s.records) (hslot : ∀ c i, t.slot c i = s.slot c i) (hctx : ContextsKept s t) :
    Works n s t where
  find k _ := State.find_of_records hrec k
  slot c i _ _ _ := hslot c i
  contexts := hctx
  live c i _ hk := hslot c i ▸ hk
  wait c i hx := hslot c i ▸ hx
  ranks r hr := ⟨r, hrec ▸ hr, rfl, rfl⟩

theorem ranks_updateRecord {f : Record → Record} (hname : ∀ r, (f r).name = r.name) (hrank : ∀ r, (f r).rank = r.rank) :
    ∀ r ∈ (s.updateRecord n f).records, ∃ q ∈ s.records, q.name = r.name ∧ q.rank = r.rank := by
  intro r hr
  obtain ⟨q, hq, rfl⟩ := List.mem_map.mp hr
  refine ⟨q, hq, ?_⟩
  split
  · exact ⟨(hname q).symm, (hrank q).symm⟩
  · exact ⟨rfl, rfl⟩

/-- The record of the resource is rewritten with its rank. -/
theorem Works.update {f : Record → Record} (hname : ∀ r, (f r).name = r.name) (hrank : ∀ r, (f r).rank = r.rank) :
    Works n s (s.updateRecord n f) where
  find k hk := by rw [s.find_updateRecord n k f hname, if_neg hk]
  slot _ _ _ _ _ := rfl
  contexts := .of_clients rfl
  live _ _ _ := id
  wait _ _ := id
  ranks := ranks_updateRecord hname hrank

/-- A slot of the resource becomes FREE or ENDED. -/
theorem Works.setSlot {x : Slot} (hs : (s.slot c i).liveName = some n) (hx : x.liveName = none) :
    Works n s (s.setSlot c i x) where
  find _ _ := rfl
  slot d j k hk hd := by
    rw [State.slot_setSlot, if_neg]
    rintro ⟨rfl, rfl⟩
    exact hk (Option.some.inj (hd.symm.trans hs))
  contexts := (s.setSlot_recallKept c i x).client
  live d j k hk := by
    rw [State.slot_setSlot] at hk
    split at hk
    · rw [hx] at hk; cases hk
    · exact hk
  wait d j hw := by
    rw [State.slot_setSlot] at hw
    split at hw
    · cases x with
      | waiting => cases hx
      | free | gating | held | recalled | ended => cases hw
    · exact hw
  ranks r hr := ⟨r, hr, rfl, rfl⟩

theorem Works.leaveQueue {x : Slot} (hs : (s.slot c i).liveName = some n) (hx : x.liveName = none) :
    Works n s ((s.leaveQueue n c i).setSlot c i x) :=
  (Works.update (f := fun r => r.dropWaiter c i) (fun _ => rfl) fun _ => rfl).trans (.setSlot hs hx)

theorem Works.leaveHolders {x : Slot} (hs : (s.slot c i).liveName = some n) (hx : x.liveName = none) :
    Works n s ((s.leaveHolders n c i).setSlot c i x) :=
  (Works.update (f := fun r => r.dropHolder c i) (fun _ => rfl) fun _ => rfl).trans (.setSlot hs hx)

theorem Works.holderEnd (s : State) (n k : Name) : Works n s (s.holderEnd k) :=
  .same (s.records_holderEnd k) (State.slot_of_clients (s.clients_holderEnd k)) (.of_clients (s.clients_holderEnd k))

/-- Slots alike but for deadlines and recalls, where those of other resources stand. -/
theorem Works.alike (hrec : t.records = s.records) (halike : SlotsAlike s t) (hctx : ContextsKept s t)
    (hslot : ∀ c i k, k ≠ n → (s.slot c i).liveName = some k → t.slot c i = s.slot c i) : Works n s t where
  find k _ := State.find_of_records hrec k
  slot := hslot
  contexts := hctx
  live c i k hk := by rwa [Slot.liveName_of_core (halike c i)] at hk
  wait c i hx := by rwa [Slot.isWaiting_of_core (halike c i)] at hx
  ranks r hr := ⟨r, hrec ▸ hr, rfl, rfl⟩

theorem Linked.works_evalRecall (h : Linked s) (n : Name) : Works n s (s.evalRecall n) := by
  refine .alike (s.evalRecall_kept n).records (s.evalRecall_slotsAlike n) (s.evalRecall_kept n).client fun c i k hk hx => ?_
  cases hr : s.find n with
  | none => rw [State.evalRecall, hr]
  | some r =>
    refine State.slot_evalRecall_of_not_holder hr ?_
    rintro x hmem ⟨rfl, rfl⟩
    have hlive := Slot.liveName_of_holding ((h.record n r hr).holders x hmem)
    exact hk (Option.some.inj (hx.symm.trans hlive))

theorem Linked.works_grant {w : Waiter} {rest : List Waiter} (h : Linked s) (hr : s.find n = some r) (hws : r.waiters = w :: rest)
    (own : Option ClientId) : Works n s (s.grant own n w rest) := by
  have hwait := ((h.record n r hr).waiters w (hws ▸ List.mem_cons_self)).1
  have hslot := s.slot_grant own n w rest
  refine ⟨⟨fun k hk => by rw [State.find_grant hr, if_neg hk], fun c i k hk hx => ?_, s.grant_contextsKept own n w rest⟩,
    fun c i k hk => ?_, fun c i hx => ?_, ?_⟩
  · rw [hslot, if_neg]
    rintro ⟨rfl, rfl⟩
    exact hk (Option.some.inj (hx.symm.trans (Slot.liveName_of_wait hwait)))
  · rw [hslot] at hk
    split at hk
    · next e =>
      obtain ⟨rfl, rfl⟩ := e
      rw [Slot.liveName_of_holding (s.holding_grantedSlot n w rest)] at hk
      exact (Slot.liveName_of_wait hwait).trans hk
    · exact hk
  · rw [hslot] at hx
    split at hx
    · rw [Slot.isWaiting_of_holding (s.holding_grantedSlot n w rest)] at hx
      cases hx
    · exact hx
  · rw [State.records_grant]
    exact ranks_updateRecord (s := { s with generation := s.drawn }) (fun _ => rfl) fun _ => rfl

theorem Linked.works_grantLoop (own : Option ClientId) (n : Name) (ws : List Waiter) : ∀ {s : State} {r : Record}, Linked s →
    s.find n = some r → r.waiters = ws → Works n s (Machine.grantLoop own n ws s) := by
  induction ws with
  | nil => exact fun _ _ _ => .refl n _
  | cons w ws ih =>
    intro s r h hr hws
    simp only [Machine.grantLoop, hr]
    cases hc : r.compatible w.mode with
    | false => exact .refl n s
    | true =>
      refine (h.works_grant hr hws own).trans (ih (r := r.afterGrants [(w, s.drawn)] ws) (h.grant hr hws hc own) ?_ rfl)
      rw [State.find_grant hr, if_pos rfl]

theorem Linked.works_grantPass (h : Linked s) (own : Option ClientId) (n : Name) : Works n s (s.grantPass own n) := by
  unfold State.grantPass
  split
  · next r hr => exact Linked.works_grantLoop own n r.waiters h hr rfl
  · exact .refl n s

theorem Works.removeRecord (s : State) (n : Name) : Works n s (s.removeRecord n) where
  find k hk := by rw [s.find_removeRecord, if_neg hk]
  slot c i _ _ _ := State.slot_of_clients (s.clients_removeRecord n) c i
  contexts := .of_clients (s.clients_removeRecord n)
  live c i k hk := State.slot_of_clients (s.clients_removeRecord n) c i ▸ hk
  wait c i hx := State.slot_of_clients (s.clients_removeRecord n) c i ▸ hx
  ranks r hr := ⟨r, by rw [s.records_removeRecord] at hr; exact List.mem_of_mem_filter hr, rfl, rfl⟩

theorem Linked.works_followUp (h : Linked s) (n : Name) : Works n s (s.followUp n) := by
  cases hr : s.find n with
  | none => rw [State.followUp_of_find_none hr]; exact .refl n s
  | some r =>
    by_cases hd : r.state = .draining ∧ r.holders = []
    · rw [State.followUp_of_done hr hd]
      exact .removeRecord s n
    · rw [State.followUp_of_kept hr hd]
      exact (h.works_grantPass none n).trans ((h.grantPass none n).works_evalRecall n)

end

end Sys2Proof.Machine
end

section
/-! PROOFS. The change queues and the slots agree (R20, R104, R108), client by client, and what each operation makes of it. -/

namespace Sys2Proof.Machine

open Sys2Proof.Claims Sys2Proof.Safety

/-! ### One change queue -/

/-- At most one entry for a slot, the urgent entries first (R104, R105). -/
def QueueLawful (q : List Entry) : Prop :=
  (q.map (·.slot)).Nodup ∧ q.Pairwise fun a b => b.cls = .urgent → a.cls = .urgent

section

variable {q l : List Entry} {i : SlotId} {k : EntryClass} {e : Entry}

theorem QueueLawful.sublist (h : QueueLawful q) (hl : l.Sublist q) : QueueLawful l :=
  ⟨h.1.sublist (hl.map _), h.2.sublist hl⟩

theorem insertUrgent_perm (i : SlotId) (q : List Entry) : (insertUrgent i q).Perm (⟨i, .urgent⟩ :: q) := by
  induction q with
  | nil => exact .refl _
  | cons e q ih =>
    unfold insertUrgent
    split
    · exact (ih.cons e).trans (.swap ..)
    · exact .refl _

theorem QueueLawful.insertUrgent (h : QueueLawful q) (hnew : ∀ e ∈ q, e.slot ≠ i) : QueueLawful (insertUrgent i q) := by
  refine ⟨?_, ?_⟩
  · rw [((insertUrgent_perm i q).map (·.slot)).nodup_iff, List.map_cons, List.nodup_cons]
    refine ⟨fun hmem => ?_, h.1⟩
    obtain ⟨e, he, rfl⟩ := List.mem_map.mp hmem
    exact hnew e he rfl
  · have hpair := h.2
    clear h hnew
    induction q with
    | nil => exact List.pairwise_singleton _ _
    | cons e q ih =>
      unfold Machine.insertUrgent
      obtain ⟨he, hq⟩ := List.pairwise_cons.mp hpair
      split
      · next hu => exact List.pairwise_cons.mpr ⟨fun _ _ _ => hu, ih hq⟩
      · exact List.pairwise_cons.mpr ⟨fun _ _ _ => rfl, hpair⟩

/-- A posting keeps the law of a queue (R105). -/
theorem QueueLawful.post (h : QueueLawful q) (i : SlotId) (k : EntryClass) : QueueLawful (postEntry i k q) := by
  have hremoved : ∀ e ∈ removeEntry i q, e.slot ≠ i := fun e he => by simpa [removeEntry] using (List.mem_filter.mp he).2
  unfold postEntry
  split
  · next hnone => exact h.insertUrgent fun e he => by simpa using List.find?_eq_none.mp hnone e he
  · next hnone =>
    have habsent : ∀ e ∈ q, e.slot ≠ i := fun e he => by simpa using List.find?_eq_none.mp hnone e he
    refine ⟨?_, List.pairwise_append.mpr ⟨h.2, List.pairwise_singleton _ _, fun a _ b hb hu => ?_⟩⟩
    · rw [List.map_append, List.nodup_append]
      refine ⟨h.1, List.nodup_singleton _, fun a ha b hb => ?_⟩
      obtain ⟨e, he, rfl⟩ := List.mem_map.mp ha
      rw [List.mem_singleton.mp hb]
      exact habsent e he
    · rw [List.mem_singleton.mp hb] at hu
      cases hu
  · exact h
  · exact (h.sublist List.filter_sublist).insertUrgent hremoved
  · exact h

theorem mem_of_mem_postEntry (h : e ∈ postEntry i k q) : e ∈ q ∨ e.slot = i := by
  have hinsert {l : List Entry} (hl : e ∈ insertUrgent i l) : e ∈ l ∨ e.slot = i := by
    obtain rfl | hm := List.mem_cons.mp ((insertUrgent_perm i l).mem_iff.mp hl)
    · exact .inr rfl
    · exact .inl hm
  unfold postEntry at h
  split at h
  · exact hinsert h
  · exact (List.mem_append.mp h).imp_right fun hm => by rw [List.mem_singleton.mp hm]
  · exact .inl h
  · exact (hinsert h).imp_left List.mem_of_mem_filter
  · exact .inl h

end

/-! ### The law of one client -/

/-- The ninth law for a client (R104), with the laws of its marks and of a CLOSED client (R20, R108). -/
structure MarksLawful (s : State) (c : ClientId) : Prop where
  queue : QueueLawful (s.client c).queue
  ended : ∀ i, (s.slot c i).isEnded = true → s.changedMark c i = true
  marked : ∀ i, s.changedMark c i = true → (s.slot c i).leased = true ∨ (s.slot c i).isEnded = true
  closed : (s.client c).state = .closed → (s.client c).queue = [] ∧ ∀ i, s.slot c i = .free

theorem marksLawful_iff {s : State} : (∀ c, MarksLawful s c) ↔ ClosedAndMarked s ∧ ChangeQueuesLawful s := by
  constructor
  · exact fun h => ⟨fun c => ⟨(h c).closed, (h c).marked⟩, fun c => ⟨(h c).queue.1, (h c).queue.2, (h c).ended⟩⟩
  · rintro ⟨hclosed, hqueues⟩ c
    obtain ⟨hfree, hmarked⟩ := hclosed c
    obtain ⟨honce, hurgent, hended⟩ := hqueues c
    exact ⟨⟨honce, hurgent⟩, hended, hmarked, hfree⟩

section

variable {s t : State} {c : ClientId} {i : SlotId} {x : Slot} {k : EntryClass} {n : Name} {r : Record}

/-- The law depends on the client's state, its change queue, and its slots but for deadlines and recalls. -/
theorem MarksLawful.alike (h : MarksLawful s c) (hstate : (t.client c).state = (s.client c).state)
    (hqueue : (t.client c).queue = (s.client c).queue) (hslot : ∀ i, (t.slot c i).core = (s.slot c i).core) :
    MarksLawful t c := by
  have hmark (i : SlotId) : t.changedMark c i = s.changedMark c i := by
    unfold State.changedMark
    rw [hqueue]
  refine ⟨hqueue ▸ h.queue, fun i he => ?_, fun i hm => ?_, fun hc => ?_⟩
  · rw [hmark]
    exact h.ended i (Slot.isEnded_of_core (hslot i) ▸ he)
  · rw [hmark] at hm
    rw [Slot.leased_of_core (hslot i), Slot.isEnded_of_core (hslot i)]
    exact h.marked i hm
  · obtain ⟨hempty, hfree⟩ := h.closed (hstate ▸ hc)
    exact ⟨hqueue.trans hempty, fun i => Slot.eq_free_of_core (hslot i) (hfree i)⟩

theorem MarksLawful.same (h : MarksLawful s c) (hclients : t.clients = s.clients) : MarksLawful t c := by
  have hclient := State.client_of_clients hclients c
  exact h.alike (by rw [hclient]) (by rw [hclient]) fun i => by rw [State.slot_of_clients hclients]

/-- A client with a slot in use is not CLOSED (R20). -/
theorem MarksLawful.not_closed (h : MarksLawful s c) (hs : s.slot c i ≠ .free) : (s.client c).state ≠ .closed :=
  fun hc => hs ((h.closed hc).2 i)

/-- Between two states one slot of a client has been written. -/
structure Written (s t : State) (c : ClientId) (i : SlotId) (x : Slot) : Prop where
  state : ∀ d, (t.client d).state = (s.client d).state
  slot : ∀ d j, t.slot d j = if c = d ∧ i = j then x else s.slot d j
  queue : ∀ d, c ≠ d → (t.client d).queue = (s.client d).queue

theorem Written.other (h : Written s t c i x) {d : ClientId} (hd : c ≠ d) (hm : MarksLawful s d) : MarksLawful t d :=
  hm.alike (h.state d) (h.queue d hd) fun j => by rw [h.slot, if_neg fun e => hd e.1]

/-- The slot is written LEASED or ENDED, and posted (R107, R108). -/
theorem Written.posted (h : Written s t c i x) (hm : MarksLawful s c) (hopen : (s.client c).state ≠ .closed)
    (hqueue : (t.client c).queue = postEntry i k (s.client c).queue) (hx : x.leased = true ∨ x.isEnded = true) :
    MarksLawful t c := by
  have hmark (j : SlotId) : t.changedMark c j = true ↔ s.changedMark c j = true ∨ i = j := by
    rw [State.changedMark_iff, State.changedMark_iff, hqueue]
    refine ⟨?_, ?_⟩
    · rintro ⟨e, he, rfl⟩
      exact (mem_of_mem_postEntry he).imp (fun he => ⟨e, he, rfl⟩) Eq.symm
    · rintro (he | rfl)
      · exact exists_mem_postEntry_of_exists he
      · exact exists_mem_postEntry i k _
  refine ⟨hqueue ▸ hm.queue.post i k, fun j he => ?_, fun j hj => ?_, fun hc => absurd (h.state c ▸ hc) hopen⟩
  · rw [hmark]
    rw [h.slot] at he
    split at he
    · next e => exact .inr e.2
    · exact .inl (hm.ended j he)
  · rw [h.slot]
    split
    · exact hx
    · next e => exact hm.marked j (((hmark j).mp hj).resolve_right fun hij => e ⟨rfl, hij⟩)

/-- The slot is written, neither CLOSED nor ENDED, and its mark stands. -/
theorem Written.kept (h : Written s t c i x) (hm : MarksLawful s c) (hopen : (s.client c).state ≠ .closed)
    (hqueue : (t.client c).queue = (s.client c).queue) (hx : x.isEnded = false)
    (hmarked : s.changedMark c i = true → x.leased = true) : MarksLawful t c := by
  have hmark (j : SlotId) : t.changedMark c j = s.changedMark c j := by
    unfold State.changedMark
    rw [hqueue]
  refine ⟨hqueue ▸ hm.queue, fun j he => ?_, fun j hj => ?_, fun hc => absurd (h.state c ▸ hc) hopen⟩
  · rw [h.slot] at he
    split at he
    · rw [hx] at he; cases he
    · rw [hmark]; exact hm.ended j he
  · rw [hmark] at hj
    rw [h.slot]
    split
    · next e => obtain ⟨-, rfl⟩ := e; exact .inl (hmarked hj)
    · exact hm.marked j hj

/-- The slot is written FREE, and its entry removed (R108). -/
theorem Written.cleared (h : Written s t c i .free) (hm : MarksLawful s c) (hopen : (s.client c).state ≠ .closed)
    (hqueue : (t.client c).queue = removeEntry i (s.client c).queue) : MarksLawful t c := by
  have hmark (j : SlotId) : t.changedMark c j = true ↔ s.changedMark c j = true ∧ i ≠ j := by
    rw [State.changedMark_iff, State.changedMark_iff, hqueue]
    simp only [removeEntry, List.mem_filter, bne_iff_ne]
    refine ⟨?_, ?_⟩
    · rintro ⟨e, ⟨he, hne⟩, rfl⟩
      exact ⟨⟨e, he, rfl⟩, fun e => hne e.symm⟩
    · rintro ⟨⟨e, he, rfl⟩, hne⟩
      exact ⟨e, ⟨he, fun e => hne e.symm⟩, rfl⟩
  refine ⟨hqueue ▸ hm.queue.sublist List.filter_sublist, fun j he => ?_, fun j hj => ?_, fun hc => absurd (h.state c ▸ hc) hopen⟩
  · rw [h.slot] at he
    split at he
    · cases he
    · next e => exact (hmark j).mpr ⟨hm.ended j he, fun hij => e ⟨rfl, hij⟩⟩
  · obtain ⟨hj, hne⟩ := (hmark j).mp hj
    rw [h.slot, if_neg fun e => hne e.2]
    exact hm.marked j hj

/-! ### The operations -/

theorem State.written_setSlot (s : State) (c : ClientId) (i : SlotId) (x : Slot) : Written s (s.setSlot c i x) c i x where
  state := ContextsKept.state (s.setSlot_recallKept c i x).client
  slot d j := s.slot_setSlot c d i j x
  queue d _ := s.queue_setSlot c d i x

theorem Written.post {u : State} (h : Written s t c i x) (hu : u = t.post c i k) : Written s u c i x where
  state d := by rw [hu, ContextsKept.state (t.post_recallKept c i k).client d, h.state]
  slot d j := by rw [hu, State.slot_post, h.slot]
  queue d hd := by rw [hu, State.post, State.client_setQueue, if_neg hd, h.queue d hd]

theorem Written.unpost (h : Written s t c i x) : Written s (t.unpost c i) c i x where
  state d := by rw [ContextsKept.state (Moves.unpost (W := NoWait) t c i).contextsKept d, h.state]
  slot d j := by rw [State.slot_unpost, h.slot]
  queue d hd := by rw [State.unpost, State.client_setQueue, if_neg hd, h.queue d hd]

theorem Written.clients {u : State} (h : Written s t c i x) (hu : u.clients = t.clients) : Written s u c i x where
  state d := by rw [State.client_of_clients hu, h.state]
  slot d j := by rw [State.slot_of_clients hu, h.slot]
  queue d hd := by rw [State.client_of_clients hu, h.queue d hd]

theorem Written.of_clients {u : State} (h : Written s t c i x) (hu : s.clients = u.clients) : Written u t c i x where
  state d := by rw [h.state, State.client_of_clients hu]
  slot d j := by rw [h.slot, State.slot_of_clients hu]
  queue d hd := by rw [h.queue d hd, State.client_of_clients hu]

/-- A slot that is WAITING or GATING has no entry (R108). -/
theorem MarksLawful.not_marked (h : MarksLawful s c) (hl : (s.slot c i).leased = false) (he : (s.slot c i).isEnded = false) :
    s.changedMark c i = false :=
  Bool.eq_false_iff.mpr fun hm => (h.marked i hm).elim (Bool.eq_false_iff.mp hl) (Bool.eq_false_iff.mp he)

/-- A WAITING or GATING slot is freed (R27, R52, R68). -/
theorem marks_freed {d : ClientId} (h : MarksLawful s d) (hs : s.slot c i ≠ .free) (hl : (s.slot c i).leased = false)
    (he : (s.slot c i).isEnded = false) (hw : Written s t c i .free) (hqueue : (t.client c).queue = (s.client c).queue) :
    MarksLawful t d := by
  by_cases hd : c = d
  · subst hd
    refine hw.kept h (h.not_closed hs) hqueue rfl fun hm => ?_
    rw [h.not_marked hl he] at hm
    cases hm
  · exact hw.other hd h

/-- A slot in use ends, and is posted urgent (R53, R70, R81). -/
theorem marks_ended {d : ClientId} (h : MarksLawful s d) (hs : s.slot c i ≠ .free) (hw : Written s t c i x)
    (hx : x.isEnded = true) (hqueue : (t.client c).queue = postEntry i k (s.client c).queue) : MarksLawful t d := by
  by_cases hd : c = d
  · subst hd
    exact hw.posted h (h.not_closed hs) hqueue (.inr hx)
  · exact hw.other hd h

/-- A LEASED or ENDED slot is freed, and its entry removed (R67, R69). -/
theorem marks_cleared {d : ClientId} (h : MarksLawful s d) (hs : s.slot c i ≠ .free) (hw : Written s t c i .free)
    (hqueue : (t.client c).queue = removeEntry i (s.client c).queue) : MarksLawful t d := by
  by_cases hd : c = d
  · subst hd
    exact hw.cleared h (h.not_closed hs) hqueue
  · exact hw.other hd h

/-- One holder evaluated (R79, R80). -/
theorem marks_applyRecall {d : ClientId} (h : MarksLawful s d) (grace : Half) (x : Holder) (b : Bool) :
    MarksLawful (s.applyRecall grace x b) d := by
  rw [s.applyRecall_eq]
  split
  · exact h
  · next hne =>
    have hw := (s.written_setSlot x.client x.slot ((s.slot x.client x.slot).afterEval (dueIn s grace) b)).post
      (k := ((s.slot x.client x.slot).afterEval (dueIn s grace) b).changeClass) rfl
    have hleased : ((s.slot x.client x.slot).afterEval (dueIn s grace) b).leased = true ∧ s.slot x.client x.slot ≠ .free := by
      cases hx : s.slot x.client x.slot with
      | held | recalled => cases b <;> exact ⟨rfl, nofun⟩
      | free | waiting | gating | ended => rw [hx] at hne; exact absurd rfl hne
    by_cases hd : x.client = d
    · subst hd
      refine hw.posted (k := ((s.slot x.client x.slot).afterEval (dueIn s grace) b).changeClass) h (h.not_closed hleased.2) ?_
        (.inl hleased.1)
      rw [State.queue_post, State.queue_setSlot]
    · exact hw.other hd h

theorem marks_recallEach {d : ClientId} (grace : Half) (f : Holder → Bool) (hs : List Holder) : ∀ {s : State}, MarksLawful s d →
    MarksLawful (s.recallEach grace f hs) d := by
  induction hs with
  | nil => exact id
  | cons x hs ih => exact fun h => ih (marks_applyRecall h grace x (f x))

theorem marks_evalRecall {d : ClientId} (h : MarksLawful s d) (n : Name) : MarksLawful (s.evalRecall n) d := by
  cases hr : s.find n with
  | none => rw [State.evalRecall, hr]; exact h
  | some r => rw [State.evalRecall_eq hr]; exact marks_recallEach _ _ _ h

/-- One grant (R46, R107): a WAITING slot has no entry, so it may become HELD without one. -/
theorem marks_grant {d : ClientId} {w : Waiter} {rest : List Waiter} (h : MarksLawful s d) (hr : s.find n = some r)
    (hwait : (s.slot w.client w.slot).isWaiting = true) (own : Option ClientId) : MarksLawful (s.grant own n w rest) d := by
  have hw : Written s (s.grant own n w rest) w.client w.slot (s.grantedSlot n w rest) :=
    ⟨(s.grant_contextsKept own n w rest).state, s.slot_grant own n w rest,
      fun d hd => State.queue_grant_kept hr (.inr (.inr hd))⟩
  have hslot : s.slot w.client w.slot ≠ .free ∧ (s.slot w.client w.slot).leased = false ∧
      (s.slot w.client w.slot).isEnded = false := by
    cases hx : s.slot w.client w.slot with
    | waiting => exact ⟨nofun, rfl, rfl⟩
    | free | gating | held | recalled | ended => rw [hx] at hwait; cases hwait
  obtain ⟨hfree, hleased, hended⟩ := hslot
  by_cases hd : w.client = d
  · subst hd
    by_cases hp : Settling s r ∨ own = some w.client
    · refine hw.kept h (h.not_closed hfree) (State.queue_grant_kept hr (hp.imp_right .inl)) ?_ fun hm => ?_
      · have hholding := s.holding_grantedSlot n w rest
        cases hx : s.grantedSlot n w rest with
        | ended => rw [hx] at hholding; cases hholding
        | free | waiting | gating | held | recalled => rfl
      · rw [h.not_marked hleased hended] at hm
        cases hm
    · rw [not_or] at hp
      refine hw.posted h (h.not_closed hfree) (State.queue_grant_posted hr hp.1 hp.2) (.inl ?_)
      rw [(State.grantedSlot_ofGrant hr).2 hp.1]
      rfl
  · exact hw.other hd h

theorem marks_grantLoop {d : ClientId} (own : Option ClientId) (n : Name) (ws : List Waiter) : ∀ {s : State} {r : Record},
    Linked s → MarksLawful s d → s.find n = some r → r.waiters = ws → MarksLawful (grantLoop own n ws s) d := by
  induction ws with
  | nil => exact fun _ h _ _ => h
  | cons w ws ih =>
    intro s r hlinked h hr hws
    simp only [Machine.grantLoop, hr]
    cases hc : r.compatible w.mode with
    | false => exact h
    | true =>
      obtain ⟨e, he⟩ := Slot.eq_waiting_of_wait ((hlinked.record n r hr).waiters w (hws ▸ List.mem_cons_self)).1
      refine ih (r := r.afterGrants [(w, s.drawn)] ws) (hlinked.grant hr hws hc own)
        (marks_grant h hr (by rw [he]; rfl) own) ?_ rfl
      rw [State.find_grant hr, if_pos rfl]

theorem marks_grantPass {d : ClientId} (hlinked : Linked s) (h : MarksLawful s d) (own : Option ClientId) (n : Name) :
    MarksLawful (s.grantPass own n) d := by
  unfold State.grantPass
  split
  · next r hr => exact marks_grantLoop own n r.waiters hlinked h hr rfl
  · exact h

end

end Sys2Proof.Machine
end

section
/-! PROOFS. The fourth law (R102): the channels and the records that are bound to them agree, record by record. -/

namespace Sys2Proof.Machine

open Sys2Proof.Claims Sys2Proof.Safety

section

variable {s t : State} {n : Name} {r q : Record} {c : ClientId} {i : SlotId}

/-! ### The law by name -/

/-- A record has a HELD or RECALLED holder on the branch. -/
def LeasedOn (s : State) (r : Record) (b : Branch) : Prop :=
  ∃ h ∈ r.holders, (s.slot h.client h.slot).leased = true ∧ (s.client h.client).branch = b

/-- The channel of a record is bound to it, and CONNECTED exactly to the branch of its leased holder; a GATING holder's channel is
SETTLING. -/
structure RecordGated (s : State) (n : Name) (r : Record) : Prop where
  binding : ∀ g, r.gate = some g → (s.channel g).binding = some n
  connected : ∀ g b, r.gate = some g → ((s.channel g).state = .connected b ↔ LeasedOn s r b)
  gating : ∀ h ∈ r.holders, (s.slot h.client h.slot).isGating = true → ∃ g, r.gate = some g ∧ (s.channel g).isSettling = true

/-- The fourth law with the facts beside it, each record read by its name. -/
structure GateLaws (s : State) : Prop where
  bound : ∀ g n, (s.channel g).binding = some n → ∃ r, s.find n = some r ∧ r.gate = some g
  record : ∀ n r, s.find n = some r → RecordGated s n r
  unbound : ∀ g b, (s.channel g).binding = none → (s.channel g).state ≠ .connected b
  deadTime : ∀ g, (s.channel g).binding.isSome = true ∨ (s.channel g).isSettling = true →
    (s.channel g).deadTime.any deadTimeInRange = true

theorem gateLaws_iff (hasc : s.records.Pairwise fun a b => a.name.toNat < b.name.toNat) : GatesLawful s ↔ GateLaws s := by
  have hfind {r : Record} (hr : r ∈ s.records) : s.find r.name = some r := State.find_of_mem hasc hr
  constructor
  · rintro ⟨hbound, hgated, hconnected, hgating, hdead⟩
    have hbound' (g n) (hb : (s.channel g).binding = some n) : ∃ r, s.find n = some r ∧ r.gate = some g := by
      obtain ⟨r, hr, hname, hgate⟩ := hbound g (by rw [hb]; nofun)
      cases hb.symm.trans hname
      exact ⟨r, hfind hr, hgate⟩
    refine ⟨hbound', fun n r hr => ?_, fun g b hb hconn => ?_, hdead⟩
    · have hmem := State.mem_of_find hr
      obtain rfl := State.find_name hr
      refine ⟨fun g hg => hgated r hmem g hg, fun g b hg => (hconnected g b).trans ⟨?_, fun ⟨h, hh, hl, hb⟩ =>
        ⟨r, hmem, hg, h, hh, hl, hb⟩⟩, fun h hh hl => hgating r hmem h hh hl⟩
      rintro ⟨y, hy, hyg, h, hh, hl, hb⟩
      have hname : y.name = r.name := Option.some.inj ((hgated y hy g hyg).symm.trans (hgated r hmem g hg))
      have hyr := hfind hy
      rw [hname, hr] at hyr
      cases hyr
      exact ⟨h, hh, hl, hb⟩
    · obtain ⟨r, hr, hg, -⟩ := (hconnected g b).mp hconn
      cases hb.symm.trans (hgated r hr g hg)
  · intro h
    refine ⟨fun g hb => ?_, fun r hr g hg => (h.record _ r (hfind hr)).binding g hg, fun g b => ⟨fun hconn => ?_, ?_⟩,
      fun r hr => (h.record _ r (hfind hr)).gating, h.deadTime⟩
    · obtain ⟨n, hn⟩ := Option.ne_none_iff_exists'.mp hb
      obtain ⟨r, hr, hg⟩ := h.bound g n hn
      exact ⟨r, State.mem_of_find hr, hn.trans (congrArg some (State.find_name hr).symm), hg⟩
    · cases hb : (s.channel g).binding with
      | none => exact absurd hconn (h.unbound g b hb)
      | some n =>
        obtain ⟨r, hr, hg⟩ := h.bound g n hb
        obtain ⟨x, hx, hl, hbr⟩ := ((h.record n r hr).connected g b hg).mp hconn
        exact ⟨r, State.mem_of_find hr, hg, x, hx, hl, hbr⟩
    · rintro ⟨r, hr, hg, x, hx, hl, hbr⟩
      exact ((h.record _ r (hfind hr)).connected g b hg).mpr ⟨x, hx, hl, hbr⟩

/-! ### Changes that the law does not see -/

/-- A record's law depends on its holders' slots and branches, and on its channel. -/
theorem RecordGated.congr (h : RecordGated s n r) (hh : q.holders = r.holders) (hg : q.gate = r.gate)
    (hslot : ∀ x ∈ r.holders, (t.slot x.client x.slot).leased = (s.slot x.client x.slot).leased ∧
      (t.slot x.client x.slot).isGating = (s.slot x.client x.slot).isGating ∧
      (t.client x.client).branch = (s.client x.client).branch)
    (hchannel : ∀ g, r.gate = some g → t.channel g = s.channel g) : RecordGated t n q := by
  have hleased (b : Branch) : LeasedOn t q b ↔ LeasedOn s r b := by
    unfold LeasedOn
    rw [hh]
    refine exists_congr fun x => and_congr_right fun hx => ?_
    obtain ⟨hl, -, hb⟩ := hslot x hx
    rw [hl, hb]
  refine ⟨fun g hq => ?_, fun g b hq => ?_, fun x hx hgating => ?_⟩
  · rw [hg] at hq
    rw [hchannel g hq]
    exact h.binding g hq
  · rw [hg] at hq
    rw [hchannel g hq, hleased]
    exact h.connected g b hq
  · rw [hh] at hx
    rw [(hslot x hx).2.1] at hgating
    obtain ⟨g, hr, hs⟩ := h.gating x hx hgating
    exact ⟨g, hg.trans hr, by rwa [hchannel g hr]⟩

/-- The law depends on the directory, the channels, and the holding slots with their clients' branches. -/
theorem GateLaws.congr (h : GateLaws s) (hl : Linked s) (hrec : t.records = s.records) (hchan : t.channels = s.channels)
    (hslot : ∀ c i, (s.slot c i).holding ≠ none → (t.slot c i).leased = (s.slot c i).leased ∧
      (t.slot c i).isGating = (s.slot c i).isGating ∧ (t.client c).branch = (s.client c).branch) : GateLaws t := by
  have hfind := State.find_of_records hrec
  have hchannel (g : ChannelId) : t.channel g = s.channel g := congrArg (fun v : Vector Channel 16 => v[g]) hchan
  refine ⟨fun g n hb => ?_, fun n r hr => ?_, fun g b => by rw [hchannel]; exact h.unbound g b, fun g => by
    rw [hchannel]; exact h.deadTime g⟩
  · rw [hchannel] at hb
    rw [hfind]
    exact h.bound g n hb
  · rw [hfind] at hr
    exact (h.record n r hr).congr rfl rfl (fun x hx => hslot _ _ (by rw [(hl.record n r hr).holders x hx]; nofun))
      fun g _ => hchannel g

theorem GateLaws.alike (h : GateLaws s) (hl : Linked s) (hrec : t.records = s.records) (hchan : t.channels = s.channels)
    (halike : SlotsAlike s t) (hctx : ContextsKept s t) : GateLaws t :=
  h.congr hl hrec hchan fun c i _ => ⟨Slot.leased_of_core (halike c i), Slot.isGating_of_core (halike c i), hctx.branch c⟩

/-! ### One record and its channel -/

/-- An operation over one resource, whose record and channel agree afterwards. -/
theorem GateLaws.touch (h : GateLaws s) (hl : Linked s) (ht : Touches n s t) (hr : s.find n = some r) (hq : t.find n = some q)
    (hgate : q.gate = r.gate) (hchan : ∀ g, r.gate ≠ some g → t.channel g = s.channel g)
    (hdead : ∀ g, r.gate = some g → (t.channel g).deadTime = (s.channel g).deadTime) (hrec : RecordGated t n q) :
    GateLaws t := by
  have hown := h.record n r hr
  refine ⟨fun g a hb => ?_, fun k y hy => ?_, fun g b hb => ?_, fun g hg => ?_⟩
  · by_cases hg : r.gate = some g
    · cases (hrec.binding g (hgate.trans hg)).symm.trans hb
      exact ⟨q, hq, hgate.trans hg⟩
    · rw [hchan g hg] at hb
      obtain ⟨y, hy, hyg⟩ := h.bound g a hb
      by_cases ha : a = n
      · subst ha
        cases hr.symm.trans hy
        exact absurd hyg hg
      · exact ⟨y, (ht.find a ha).trans hy, hyg⟩
  · by_cases hk : k = n
    · subst hk
      cases hq.symm.trans hy
      exact hrec
    · rw [ht.find k hk] at hy
      have hother := h.record k y hy
      refine hother.congr rfl rfl (fun x hx => ?_) fun g hg => hchan g fun hrg => ?_
      · rw [ht.slot _ _ k hk (Slot.liveName_of_holding ((hl.record k y hy).holders x hx))]
        exact ⟨rfl, rfl, ht.contexts.branch _⟩
      · exact hk (Option.some.inj ((hother.binding g hg).symm.trans (hown.binding g hrg)))
  · by_cases hg : r.gate = some g
    · cases hb.symm.trans (hrec.binding g (hgate.trans hg))
    · rw [hchan g hg] at hb ⊢
      exact h.unbound g b hb
  · by_cases hrg : r.gate = some g
    · rw [hdead g hrg]
      exact h.deadTime g (.inl (by rw [hown.binding g hrg]; rfl))
    · rw [hchan g hrg] at hg ⊢
      exact h.deadTime g hg

/-- The record keeps its holders and its gate, and no holder's slot changes. -/
theorem GateLaws.rewrite (h : GateLaws s) (hl : Linked s) (ht : Touches n s t) (hr : s.find n = some r) (hq : t.find n = some q)
    (hh : q.holders = r.holders) (hgate : q.gate = r.gate) (hchan : t.channels = s.channels)
    (hslot : ∀ x ∈ r.holders, t.slot x.client x.slot = s.slot x.client x.slot) : GateLaws t := by
  have hchannel (g : ChannelId) : t.channel g = s.channel g := congrArg (fun v : Vector Channel 16 => v[g]) hchan
  refine h.touch hl ht hr hq hgate (fun g _ => hchannel g) (fun g _ => by rw [hchannel])
    ((h.record n r hr).congr hh hgate (fun x hx => ?_) fun g _ => hchannel g)
  rw [hslot x hx]
  exact ⟨rfl, rfl, ht.contexts.branch _⟩

/-! ### The holder of a gated resource -/

/-- A gated resource has one holder at most (R90). -/
theorem Linked.gated_holder (h : Linked s) (hr : s.find n = some r) (hg : r.gate.isSome = true) {x y : Holder}
    (hx : x ∈ r.holders) (hy : y ∈ r.holders) : x = y := by
  have hbacked := h.record n r hr
  obtain ⟨-, -, -, -, hlimit⟩ := hbacked.fields
  have hle := hbacked.limits.1
  rw [hlimit hg] at hle
  obtain ⟨a, ha⟩ := List.length_eq_one_iff.mp (le_antisymm hle (List.length_pos_of_mem hx))
  rw [ha] at hx hy
  rw [List.mem_singleton.mp hx, List.mem_singleton.mp hy]

/-- A holder leaves its resource, and the holder end is reported where its slot was leased (R92). -/
theorem GateLaws.leave {m : Mode} {g : Gen} (h : GateLaws s) (hl : Linked s) (ht : Touches n s t)
    (hs : (s.slot c i).holding = some (n, m, g)) (hr : s.find n = some r) (hq : t.find n = some (r.dropHolder c i))
    (hslot : ∀ d j, ¬ (c = d ∧ i = j) → t.slot d j = s.slot d j)
    (hchan : ∀ k, t.channel k = if r.gate = some k ∧ (s.slot c i).leased = true then (s.channel k).holderEnd else s.channel k) :
    GateLaws t := by
  have hown := h.record n r hr
  have hmem : (⟨c, i, m, g⟩ : Holder) ∈ r.holders := by
    obtain ⟨y, hy, hm⟩ := hl.holding c i n m g hs
    cases hr.symm.trans hy
    exact hm
  have hend (x : Channel) : x.holderEnd.binding = x.binding ∧ x.holderEnd.deadTime = x.deadTime := by
    unfold Channel.holderEnd
    split <;> exact ⟨rfl, rfl⟩
  refine h.touch hl ht hr hq rfl (fun k hk => by rw [hchan, if_neg fun e => hk e.1]) (fun k _ => ?_) ⟨fun k hk => ?_,
    fun k b hk => ?_, fun x hx hgating => ?_⟩
  · rw [hchan]
    split
    · exact (hend _).2
    · rfl
  · rw [hchan]
    split
    · rw [(hend _).1]; exact hown.binding k hk
    · exact hown.binding k hk
  · have hk : r.gate = some k := hk
    refine iff_of_false (fun hconn => ?_) ?_
    · rw [hchan] at hconn
      cases hleased : (s.slot c i).leased with
      | true =>
        have hwas := (hown.connected k (s.client c).branch hk).mpr ⟨_, hmem, hleased, rfl⟩
        rw [if_pos ⟨hk, hleased⟩, Channel.holderEnd_of_connected hwas] at hconn
        cases hconn
      | false =>
        have hgating : (s.slot c i).isGating = true := by
          cases hx : s.slot c i with
          | gating => rfl
          | held | recalled => rw [hx] at hleased; cases hleased
          | free | waiting | ended => rw [hx] at hs; cases hs
        obtain ⟨k', hk', hsettling⟩ := hown.gating _ hmem hgating
        cases hk.symm.trans hk'
        rw [if_neg fun e => Bool.false_ne_true (hleased.symm.trans e.2)] at hconn
        unfold Channel.isSettling at hsettling
        rw [hconn] at hsettling
        cases hsettling
    · rintro ⟨x, hx, -, -⟩
      obtain ⟨hx, hne⟩ := (mem_dropHolder x).mp hx
      obtain rfl := hl.gated_holder hr (hk ▸ rfl) hmem hx
      exact hne ⟨rfl, rfl⟩
  · obtain ⟨hx, hne⟩ := (mem_dropHolder x).mp hx
    rw [hslot _ _ hne] at hgating
    obtain ⟨k, hk, -⟩ := hown.gating x hx hgating
    obtain rfl := hl.gated_holder hr (hk ▸ rfl) hmem hx
    exact absurd ⟨rfl, rfl⟩ hne

/-! ### A grant -/

/-- A waiter of a gated resource that is compatible finds no holder (R43, R90). -/
theorem holders_of_gated_compatible (hlimit : r.gate.isSome = true → r.shareLimit = 1) (hg : r.gate.isSome = true) {m : Mode}
    (hc : r.compatible m = true) : r.holders = [] := by
  cases m with
  | exclusive => exact (Record.compatible_exclusive_iff r).mp hc
  | shared => exact (Record.compatible_shared_iff_of_limit_one (hlimit hg)).mp hc

theorem GateLaws.grant {w : Waiter} {rest : List Waiter} (h : GateLaws s) (hl : Linked s) (hr : s.find n = some r)
    (hws : r.waiters = w :: rest) (hc : r.compatible w.mode = true) (own : Option ClientId) :
    GateLaws (s.grant own n w rest) := by
  have hown := h.record n r hr
  have hbacked := hl.record n r hr
  have hwait := (hbacked.waiters w (hws ▸ List.mem_cons_self)).1
  obtain ⟨-, -, -, -, hlimit⟩ := hbacked.fields
  have hslot := s.slot_grant own n w rest
  have hself : (s.grant own n w rest).slot w.client w.slot = s.grantedSlot n w rest := by rw [hslot, if_pos ⟨rfl, rfl⟩]
  have hother {x : Holder} (hx : x ∈ r.holders) : (s.grant own n w rest).slot x.client x.slot = s.slot x.client x.slot := by
    rw [hslot, if_neg (hl.not_holder_of_wait hr hwait x hx)]
  have hmem (x : Holder) : x ∈ (r.afterGrants [(w, s.drawn)] rest).holders ↔
      x ∈ r.holders ∨ x = ⟨w.client, w.slot, w.mode, s.drawn⟩ := by simp [Record.afterGrants]
  obtain ⟨hgated, hheld⟩ := State.grantedSlot_ofGrant (w := w) (rest := rest) hr
  have hbranch := (s.grant_contextsKept own n w rest).branch w.client
  have hq : (s.grant own n w rest).find n = some (r.afterGrants [(w, s.drawn)] rest) := by
    rw [State.find_grant hr, if_pos rfl]
  refine h.touch hl (hl.works_grant hr hws own).toTouches hr hq rfl (fun k hk => State.channel_grant_of_other hr (.inl hk))
    (fun k hk => ?_) ⟨fun k hk => ?_, fun k b hk => ?_, fun x hx hgating => ?_⟩
  · by_cases hs : Settling s r
    · rw [State.channel_grant_of_other hr (.inr hs)]
    · rw [State.channel_grant hr hk hs]
  · have hk : r.gate = some k := hk
    by_cases hs : Settling s r
    · rw [State.channel_grant_of_other hr (.inr hs)]
      exact hown.binding k hk
    · rw [State.channel_grant hr hk hs]
      exact hown.binding k hk
  · have hk : r.gate = some k := hk
    have hnone := holders_of_gated_compatible hlimit (hk ▸ rfl) hc
    have honly (x : Holder) : x ∈ (r.afterGrants [(w, s.drawn)] rest).holders ↔
        x = ⟨w.client, w.slot, w.mode, s.drawn⟩ := by rw [hmem, hnone]; simp
    by_cases hs : Settling s r
    · refine iff_of_false (fun hconn => ?_) ?_
      · obtain ⟨k', hk', hsettling⟩ := hs
        cases hk.symm.trans hk'
        rw [State.channel_grant_of_other hr (.inr ⟨k, hk, hsettling⟩)] at hconn
        unfold Channel.isSettling at hsettling
        rw [hconn] at hsettling
        cases hsettling
      · rintro ⟨x, hx, hleased, -⟩
        obtain rfl := (honly x).mp hx
        rw [hself, hgated hs] at hleased
        cases hleased
    · rw [State.channel_grant hr hk hs]
      constructor
      · intro e
        refine ⟨_, (honly _).mpr rfl, ?_, ?_⟩
        · rw [hself, hheld hs]
          rfl
        · exact hbranch.trans (GateState.connected.inj e)
      · rintro ⟨x, hx, -, rfl⟩
        obtain rfl := (honly x).mp hx
        exact congrArg GateState.connected hbranch.symm
  · obtain hx | rfl := (hmem x).mp hx
    · rw [hother hx] at hgating
      obtain ⟨k, hk, -⟩ := hown.gating x hx hgating
      rw [holders_of_gated_compatible hlimit (hk ▸ rfl) hc] at hx
      cases hx
    · by_cases hs : Settling s r
      · obtain ⟨k, hk, hsettling⟩ := hs
        exact ⟨k, hk, by rw [State.channel_grant_of_other hr (.inr ⟨k, hk, hsettling⟩)]; exact hsettling⟩
      · rw [hself, hheld hs] at hgating
        cases hgating

theorem GateLaws.grantLoop (own : Option ClientId) (n : Name) (ws : List Waiter) : ∀ {s : State} {r : Record}, GateLaws s →
    Linked s → s.find n = some r → r.waiters = ws → GateLaws (Machine.grantLoop own n ws s) := by
  induction ws with
  | nil => exact fun h _ _ _ => h
  | cons w ws ih =>
    intro s r h hl hr hws
    simp only [Machine.grantLoop, hr]
    cases hc : r.compatible w.mode with
    | false => exact h
    | true =>
      refine ih (r := r.afterGrants [(w, s.drawn)] ws) (h.grant hl hr hws hc own) (hl.grant hr hws hc own) ?_ rfl
      rw [State.find_grant hr, if_pos rfl]

theorem GateLaws.grantPass (h : GateLaws s) (hl : Linked s) (own : Option ClientId) (n : Name) :
    GateLaws (s.grantPass own n) := by
  unfold State.grantPass
  split
  · next r hr => exact GateLaws.grantLoop own n r.waiters h hl hr rfl
  · exact h

theorem GateLaws.evalRecall (h : GateLaws s) (hl : Linked s) (n : Name) : GateLaws (s.evalRecall n) :=
  h.alike hl (s.evalRecall_kept n).records (s.evalRecall_kept n).channels (s.evalRecall_slotsAlike n) (s.evalRecall_kept n).client

/-! ### A record removed -/

theorem GateLaws.removeRecord (h : GateLaws s) (hempty : ∀ r, s.find n = some r → r.holders = []) :
    GateLaws (s.removeRecord n) := by
  have hclients := s.clients_removeRecord n
  have hchannel := s.channel_removeRecord n
  have hfind := s.find_removeRecord n
  have hbinding {g : ChannelId} : s.gateOf n = some g ↔ (s.channel g).binding = some n := by
    constructor
    · intro hg
      obtain ⟨r, hr, hrg⟩ := Option.bind_eq_some_iff.mp hg
      exact (h.record n r hr).binding g hrg
    · intro hb
      obtain ⟨r, hr, hrg⟩ := h.bound g n hb
      exact (State.gateOf_of_find hr).trans hrg
  refine ⟨fun g a hb => ?_, fun k y hy => ?_, fun g b hb => ?_, fun g hg => ?_⟩
  · rw [hchannel] at hb
    split at hb
    · cases hb
    · next hne =>
      obtain ⟨y, hy, hyg⟩ := h.bound g a hb
      refine ⟨y, ?_, hyg⟩
      rw [hfind, if_neg]
      · exact hy
      · rintro rfl
        exact hne (hbinding.mpr hb)
  · rw [hfind] at hy
    split at hy
    · cases hy
    · next hk =>
      have hother := h.record k y hy
      refine hother.congr rfl rfl (fun x _ => ?_) fun g hg => ?_
      · rw [State.slot_of_clients hclients, State.client_of_clients hclients]
        exact ⟨rfl, rfl, rfl⟩
      · rw [hchannel, if_neg]
        exact fun hn => hk (Option.some.inj ((hother.binding g hg).symm.trans (hbinding.mp hn)))
  · rw [hchannel] at hb ⊢
    split
    · next hg =>
      intro hconn
      obtain ⟨r, hr, hrg⟩ := h.bound g n (hbinding.mp hg)
      obtain ⟨x, hx, -⟩ := ((h.record n r hr).connected g b hrg).mp hconn
      rw [hempty r hr] at hx
      cases hx
    · next hg =>
      rw [if_neg hg] at hb
      exact h.unbound g b hb
  · rw [hchannel] at hg ⊢
    split
    · next hn => exact h.deadTime g (.inl (by rw [hbinding.mp hn]; rfl))
    · next hn =>
      rw [if_neg hn] at hg
      exact h.deadTime g hg

end

end Sys2Proof.Machine
end

section
/-! PROOFS. The laws of one state of work: everything agrees but for the resource that an operation is working on. -/

namespace Sys2Proof.Machine

open Sys2Proof.Claims Sys2Proof.Safety

/-! ### Slots that the lists and the channels see as the same -/

/-- The two slots are the same but for deadlines, or neither is live. -/
def Slot.Same (x y : Slot) : Prop :=
  y.core = x.core ∧ y.isRecalled = x.isRecalled ∨ x.liveName = none ∧ y.liveName = none

theorem Slot.not_leased_of_not_live {x : Slot} (h : x.liveName = none) :
    x.leased = false ∧ x.isGating = false ∧ x.isRecalled = false ∧ x.isWaiting = false := by
  cases x with
  | waiting | gating | held | recalled => cases h
  | free | ended => exact ⟨rfl, rfl, rfl, rfl⟩

section

variable {x y : Slot} (h : x.Same y)
include h

theorem Slot.Same.wait : y.wait = x.wait := by
  obtain ⟨hc, -⟩ | ⟨hx, hy⟩ := h
  · exact Slot.wait_of_core hc
  · rw [Slot.wait_of_not_live hx, Slot.wait_of_not_live hy]

theorem Slot.Same.holding : y.holding = x.holding := by
  obtain ⟨hc, -⟩ | ⟨hx, hy⟩ := h
  · exact Slot.holding_of_core hc
  · rw [Slot.holding_of_not_live hx, Slot.holding_of_not_live hy]

theorem Slot.Same.liveName : y.liveName = x.liveName := by
  obtain ⟨hc, -⟩ | ⟨hx, hy⟩ := h
  · exact Slot.liveName_of_core hc
  · rw [hx, hy]

theorem Slot.Same.leased : y.leased = x.leased := by
  obtain ⟨hc, -⟩ | ⟨hx, hy⟩ := h
  · exact Slot.leased_of_core hc
  · rw [(Slot.not_leased_of_not_live hx).1, (Slot.not_leased_of_not_live hy).1]

theorem Slot.Same.isGating : y.isGating = x.isGating := by
  obtain ⟨hc, -⟩ | ⟨hx, hy⟩ := h
  · exact Slot.isGating_of_core hc
  · rw [(Slot.not_leased_of_not_live hx).2.1, (Slot.not_leased_of_not_live hy).2.1]

theorem Slot.Same.isRecalled : y.isRecalled = x.isRecalled := by
  obtain ⟨-, hr⟩ | ⟨hx, hy⟩ := h
  · exact hr
  · rw [(Slot.not_leased_of_not_live hx).2.2.1, (Slot.not_leased_of_not_live hy).2.2.1]

theorem Slot.Same.isWaiting : y.isWaiting = x.isWaiting := by
  obtain ⟨hc, -⟩ | ⟨hx, hy⟩ := h
  · exact Slot.isWaiting_of_core hc
  · rw [(Slot.not_leased_of_not_live hx).2.2.2, (Slot.not_leased_of_not_live hy).2.2.2]

end

theorem Slot.Same.refl (x : Slot) : x.Same x := .inl ⟨rfl, rfl⟩

/-! ### Ranks -/

section

variable {s t : State} {n : Name} {r q : Record} {c : ClientId} {i : SlotId} {m : Mode}

/-- The second law withstands fewer live slots, where the records of live slots keep their ranks (R41, R42). -/
theorem RanksLawful.mono (hlive : ∀ c i k, (t.slot c i).liveName = some k → (s.slot c i).liveName = some k)
    (hwait : ∀ c i, (t.slot c i).isWaiting = true → (s.slot c i).isWaiting = true)
    (hranks : ∀ c i, ∀ r ∈ t.records, (t.slot c i).liveName = some r.name →
      ∃ q ∈ s.records, q.name = r.name ∧ q.rank = r.rank)
    (h : RanksLawful s) : RanksLawful t := by
  intro c i j hij hi hj
  obtain ⟨a, ha⟩ := Option.ne_none_iff_exists'.mp hi
  obtain ⟨b, hb⟩ := Option.ne_none_iff_exists'.mp hj
  obtain ⟨hne, hrank⟩ := h c i j hij (by rw [hlive c i a ha]; nofun) (by rw [hlive c j b hb]; nofun)
  rw [hlive c i a ha, hlive c j b hb] at hne
  refine ⟨by rw [ha, hb]; exact hne, fun hw r hr q hq hir hjq => ?_⟩
  obtain ⟨r', hr', hrn, hrr⟩ := hranks c i r hr hir
  obtain ⟨q', hq', hqn, hqr⟩ := hranks c j q hq hjq
  rw [← hrr, ← hqr]
  exact hrank (hwait c i hw) r' hr' q' hq' (by rw [hrn]; exact hlive c i _ hir) (by rw [hqn]; exact hlive c j _ hjq)

theorem Works.ranksLawful (k : Works n s t) (h : RanksLawful s) : RanksLawful t :=
  RanksLawful.mono k.live k.wait (fun _ _ r hr _ => k.ranks r hr) h

/-- An admitted request's slot ranks above the client's other live slots (R40, R41). -/
theorem ranksLawful_enqueue (hlinked : Linked s) (hr : s.find n = some r)
    (hwait : s.hasWait c = false) (hlive : s.hasLive c n = false) (hblocked : s.rankBlocked c r.rank = false)
    (h : RanksLawful s) : RanksLawful (s.enqueue c i n m) := by
  have hranks : ∀ x ∈ (s.enqueue c i n m).records, ∃ y ∈ s.records, y.name = x.name ∧ y.rank = x.rank :=
    ranks_updateRecord (s := s.setSlot c i (.waiting n m none)) (fun _ => rfl) fun _ => rfl
  have hslot := fun d j => s.slot_enqueue c d i j n m
  have hown : ((s.enqueue c i n m).slot c i).liveName = some n := by rw [hslot, if_pos ⟨rfl, rfl⟩]; rfl
  have hother {d : ClientId} {j : SlotId} (hne : ¬ (c = d ∧ i = j)) : (s.enqueue c i n m).slot d j = s.slot d j := by
    rw [hslot, if_neg hne]
  have hnone (j : SlotId) : (s.slot c j).liveName ≠ some n := fun e =>
    Bool.eq_false_iff.mp hlive (State.hasLive_iff.mpr ⟨j, e⟩)
  have hname (x : Record) (hx : x ∈ s.records) (hn : x.name = n) : x = r := by
    have hfound := State.find_of_mem hlinked.ascending hx
    rw [hn, hr] at hfound
    exact (Option.some.inj hfound).symm
  intro d j k hjk hj hk
  by_cases hjo : c = d ∧ i = j
  · obtain ⟨rfl, rfl⟩ := hjo
    have hko : ¬ (c = c ∧ i = k) := fun e => hjk e.2
    rw [hown, hother hko]
    refine ⟨fun e => hnone k e.symm, fun _ x hx y hy hxn hyn => ?_⟩
    obtain ⟨x', hx', hxname, hxrank⟩ := hranks x hx
    obtain ⟨y', hy', hyname, hyrank⟩ := hranks y hy
    obtain rfl := hname x' hx' (hxname.trans (Option.some.inj hxn).symm)
    rw [← hxrank, ← hyrank]
    refine lt_of_not_ge fun hle => Bool.eq_false_iff.mp hblocked (State.rankBlocked_iff.mpr ?_)
    refine ⟨k, y.name, y', hyn, ?_, hle⟩
    rw [← hyname]
    exact State.find_of_mem hlinked.ascending hy'
  · by_cases hko : c = d ∧ i = k
    · obtain ⟨rfl, rfl⟩ := hko
      rw [hown, hother hjo]
      refine ⟨hnone j, fun hw => ?_⟩
      rw [isWaiting_of_hasWait hwait j] at hw
      cases hw
    · rw [hother hjo, hother hko] at *
      obtain ⟨hne, hrank⟩ := h d j k hjk hj hk
      refine ⟨hne, fun hw x hx y hy hxn hyn => ?_⟩
      obtain ⟨x', hx', hxname, hxrank⟩ := hranks x hx
      obtain ⟨y', hy', hyname, hyrank⟩ := hranks y hy
      rw [← hxrank, ← hyrank]
      exact hrank hw x' hx' y' hy' (by rw [hxname]; exact hxn) (by rw [hyname]; exact hyn)

/-! ### The laws of a state at work -/

/-- The seventh law and the tenth for a record (R15, R45). -/
def Settled (r : Record) : Prop := HeadIncompatible r ∧ (r.state = .draining → r.holders ≠ [])

/-- The eighth law for a record (R78). -/
def RecallsOf (s : State) (r : Record) : Prop :=
  ∀ h ∈ r.holders, (s.slot h.client h.slot).isRecalled = true →
    r.recallGrace ≠ 0#16 ∧ ∃ w ∈ r.waiters.head?, w.priority < (s.client h.client).priority

/-- The laws of the tables but for the change queue of the client `o` and for what the follow-up of the resource `n` restores.
`full` says whether the laws of ranks, gates and recalls are among them. -/
structure AtWork (full : Prop) (o : Option ClientId) (n : Option Name) (s : State) : Prop where
  linked : Linked s
  marks : ∀ d, o ≠ some d → MarksLawful s d
  settled : ∀ k r, n ≠ some k → s.find k = some r → Settled r
  ranks : full → RanksLawful s
  gates : full → GateLaws s
  recalls : full → ∀ k r, n ≠ some k → s.find k = some r → RecallsOf s r

theorem atWork_false_iff : AtWork False none none s ↔ ListsAgree s := by
  constructor
  · intro h
    obtain ⟨hdir, hlisted, hbacked⟩ := linked_iff.mp h.linked
    obtain ⟨hclosed, hqueues⟩ := marksLawful_iff.mp fun d => h.marks d (by nofun)
    exact ⟨hdir, hlisted, hbacked, hclosed, hqueues, fun r hr =>
      h.settled r.name r (by nofun) (State.find_of_mem h.linked.ascending hr)⟩
  · intro h
    have hlinked := ListsAgree.linked h
    obtain ⟨-, -, -, hclosed, hqueues, hsettled⟩ := h
    exact ⟨hlinked, fun d _ => marksLawful_iff.mpr ⟨hclosed, hqueues⟩ d, fun k r _ hr => hsettled r (State.mem_of_find hr),
      False.elim, False.elim, False.elim⟩

theorem atWork_true_iff : AtWork True none none s ↔ ListsAgree s ∧ RanksLawful s ∧ GatesLawful s ∧ RecallsLawful s := by
  constructor
  · intro h
    have hlists : ListsAgree s := atWork_false_iff.mp ⟨h.linked, h.marks, h.settled, False.elim, False.elim, False.elim⟩
    exact ⟨hlists, h.ranks trivial, (gateLaws_iff h.linked.ascending).mpr (h.gates trivial), fun r hr =>
      h.recalls trivial r.name r (by nofun) (State.find_of_mem h.linked.ascending hr)⟩
  · rintro ⟨hlists, hranks, hgates, hrecalls⟩
    have h := atWork_false_iff.mpr hlists
    exact ⟨h.linked, h.marks, h.settled, fun _ => hranks, fun _ => (gateLaws_iff h.linked.ascending).mp hgates,
      fun _ k r _ hr => hrecalls r (State.mem_of_find hr)⟩

variable {full : Prop} {o : Option ClientId}

/-- An operation over a resource begins. -/
theorem AtWork.begin (h : AtWork full o none s) (n : Name) : AtWork full o (some n) s :=
  { h with settled := fun k r _ => h.settled k r (by nofun), recalls := fun hf k r _ => h.recalls hf k r (by nofun) }

/-- An operation over a resource ends with its record settled and evaluated. -/
theorem AtWork.finish (h : AtWork full o (some n) s) (hsettled : ∀ r, s.find n = some r → Settled r)
    (hrecalls : full → ∀ r, s.find n = some r → RecallsOf s r) : AtWork full o none s := by
  refine { h with settled := fun k r _ hr => ?_, recalls := fun hf k r _ hr => ?_ }
  · by_cases hk : k = n
    · subst hk; exact hsettled r hr
    · exact h.settled k r (fun e => hk (Option.some.inj e).symm) hr
  · by_cases hk : k = n
    · subst hk; exact hrecalls hf r hr
    · exact h.recalls hf k r (fun e => hk (Option.some.inj e).symm) hr

/-- An operation over the resource at work. -/
theorem AtWork.touch (h : AtWork full o (some n) s) (ht : Touches n s t) (hlinked : Linked t)
    (hmarks : ∀ d, MarksLawful s d → o ≠ some d → MarksLawful t d) (hranks : full → RanksLawful s → RanksLawful t)
    (hgates : full → GateLaws s → GateLaws t) : AtWork full o (some n) t where
  linked := hlinked
  marks d hd := hmarks d (h.marks d hd) hd
  settled k r hk hr := by
    rw [ht.find k fun e => hk (congrArg some e.symm)] at hr
    exact h.settled k r hk hr
  ranks hf := hranks hf (h.ranks hf)
  gates hf := hgates hf (h.gates hf)
  recalls hf k r hk hr := by
    have hne : k ≠ n := fun e => hk (congrArg some e.symm)
    rw [ht.find k hne] at hr
    intro x hx hrec
    have hlive := Slot.liveName_of_holding ((h.linked.record k r hr).holders x hx)
    rw [ht.slot _ _ k hne hlive] at hrec
    rw [ht.contexts.priority]
    exact h.recalls hf k r hk hr x hx hrec

theorem AtWork.work (h : AtWork full o (some n) s) (ht : Works n s t) (hlinked : Linked t)
    (hmarks : ∀ d, MarksLawful s d → o ≠ some d → MarksLawful t d) (hgates : full → GateLaws s → GateLaws t) :
    AtWork full o (some n) t :=
  h.touch ht.toTouches hlinked hmarks (fun _ => ht.ranksLawful) hgates

/-- A change that the lists and the channels do not see. -/
theorem AtWork.quiet {a : Option Name} (h : AtWork full o a s) (hrec : t.records = s.records) (hchan : t.channels = s.channels)
    (hslot : ∀ c i, (s.slot c i).Same (t.slot c i)) (hctx : ContextsKept s t)
    (hmarks : ∀ d, MarksLawful s d → o ≠ some d → MarksLawful t d) : AtWork full o a t where
  linked := h.linked.congr hrec (fun c i => (hslot c i).wait) (fun c i => (hslot c i).holding) fun c _ _ => hctx.priority c
  marks d hd := hmarks d (h.marks d hd) hd
  settled k r hk hr := h.settled k r hk (by rwa [State.find_of_records hrec] at hr)
  ranks hf := RanksLawful.mono (fun c i k hk => (hslot c i).liveName ▸ hk) (fun c i hw => (hslot c i).isWaiting ▸ hw)
    (fun _ _ r hr _ => ⟨r, hrec ▸ hr, rfl, rfl⟩) (h.ranks hf)
  gates hf := (h.gates hf).congr h.linked hrec hchan fun c i _ => ⟨(hslot c i).leased, (hslot c i).isGating, hctx.branch c⟩
  recalls hf k r hk hr x hx hrecalled := by
    rw [State.find_of_records hrec] at hr
    rw [(hslot _ _).isRecalled] at hrecalled
    rw [hctx.priority]
    exact h.recalls hf k r hk hr x hx hrecalled

/-- The tables that the laws read. -/
theorem AtWork.same {a : Option Name} (h : AtWork full o a s) (hrec : t.records = s.records) (hclients : t.clients = s.clients)
    (hchan : t.channels = s.channels) : AtWork full o a t :=
  h.quiet hrec hchan (fun c i => State.slot_of_clients hclients c i ▸ .refl _) (.of_clients hclients)
    fun _ hm _ => hm.same hclients

/-! ### The grant pass, recall evaluation, and the follow-up -/

theorem AtWork.grantPass (h : AtWork full o (some n) s) (own : Option ClientId) :
    AtWork full o (some n) (s.grantPass own n) :=
  h.work (h.linked.works_grantPass own n) (h.linked.grantPass own n) (fun _ hm _ => marks_grantPass h.linked hm own n)
    fun _ hg => hg.grantPass h.linked own n

/-- Recall evaluation leaves a slot RECALLED only where the condition holds (R74, R78). -/
theorem Slot.condition_of_isRecalled {due : Deadline} {x : Slot} {b : Bool} (h : (x.afterEval due b).isRecalled = true) :
    b = true := by
  cases b with
  | true => rfl
  | false => cases x <;> cases h

theorem Linked.recallsOf_evalRecall (h : Linked s) (hr : s.find n = some r) : RecallsOf (s.evalRecall n) r := by
  intro x hx hrec
  rw [State.slot_evalRecall h.listsBacked hr hx] at hrec
  obtain ⟨hgrace, w, hw, -, -, hlt, -⟩ := State.recallCondition_iff.mp (Slot.condition_of_isRecalled hrec)
  rw [ContextsKept.priority (s.evalRecall_kept n).client]
  exact ⟨hgrace, w, hw, hlt⟩

/-- Recall evaluation ends an operation over a settled resource (R77). -/
theorem AtWork.evalRecall (h : AtWork full o (some n) s) (hsettled : ∀ r, s.find n = some r → Settled r) :
    AtWork full o none (s.evalRecall n) := by
  have hwork : AtWork full o (some n) (s.evalRecall n) := h.work (h.linked.works_evalRecall n) (h.linked.evalRecall n)
    (fun _ hm _ => marks_evalRecall hm n) fun _ hg => hg.evalRecall h.linked n
  refine hwork.finish (fun r hr => ?_) fun _ r hr => ?_
  · rw [State.find_evalRecall] at hr
    exact hsettled r hr
  · rw [State.find_evalRecall] at hr
    exact h.linked.recallsOf_evalRecall hr

/-- After a grant pass the head waiter is not compatible (R45). -/
theorem Linked.settled_grantPass (h : Linked s) (hr : s.find n = some r) (hd : r.state = .draining → r.holders ≠ [])
    (own : Option ClientId) : ∀ q, (s.grantPass own n).find n = some q → Settled q := by
  obtain ⟨gs, rest, run⟩ := State.grantPass_run h.directoryLawful h.listsBacked hr own
  intro q hq
  cases run.found.symm.trans hq
  exact ⟨run.stuck, fun e hq => hd e (List.append_eq_nil_iff.mp hq).1⟩

/-- The removal of a record without holders and waiters ends an operation (R17). -/
theorem AtWork.removeRecord (h : AtWork full o (some n) s) (hempty : ∀ r, s.find n = some r → r.holders = [] ∧ r.waiters = []) :
    AtWork full o none (s.removeRecord n) := by
  have hnone (r : Record) : (s.removeRecord n).find n ≠ some r := by
    rw [s.find_removeRecord, if_pos rfl]
    nofun
  have hwork : AtWork full o (some n) (s.removeRecord n) := h.work (.removeRecord s n) (h.linked.removeRecord hempty)
    (fun _ hm _ => hm.same (s.clients_removeRecord n)) fun _ hg => hg.removeRecord fun r hr => (hempty r hr).1
  exact hwork.finish (fun r hr => absurd hr (hnone r)) fun _ r hr => absurd hr (hnone r)

/-- The follow-up ends an operation (R47). -/
theorem AtWork.followUp (h : AtWork full o (some n) s) : AtWork full o none (s.followUp n) := by
  cases hr : s.find n with
  | none =>
    rw [State.followUp_of_find_none hr]
    exact h.finish (fun r e => by rw [hr] at e; cases e) fun _ r e => by rw [hr] at e; cases e
  | some r =>
    by_cases hd : r.state = .draining ∧ r.holders = []
    · rw [State.followUp_of_done hr hd]
      refine h.removeRecord fun q hq => ?_
      cases hr.symm.trans hq
      exact ⟨hd.2, (h.linked.record n r hr).draining hd.1⟩
    · rw [State.followUp_of_kept hr hd]
      exact (h.grantPass none).evalRecall (h.linked.settled_grantPass hr (fun e hh => hd ⟨e, hh⟩) none)

end

end Sys2Proof.Machine
end

section
/-! PROOFS. The departures from a list at work: waits and leases that end, slots that are freed, records that are retired. -/

namespace Sys2Proof.Machine

open Sys2Proof.Claims Sys2Proof.Safety

section

variable {s t : State} {n : Name} {r : Record} {c : ClientId} {i : SlotId} {m : Mode} {g : Gen} {x : Slot} {full : Prop}
  {o : Option ClientId}

theorem ContextsKept.symm (h : ContextsKept s t) : ContextsKept t s := fun c => by rw [h c]

/-! ### An entry leaves a list -/

/-- A state with the directory and the slots of another. -/
theorem Written.works {u : State} (hw : Written s t c i x) (hu : Works n s u) (hslot : ∀ d j, u.slot d j =
    if c = d ∧ i = j then x else s.slot d j) (hrec : t.records = u.records) (hctx : ContextsKept s t) : Works n s t :=
  hu.trans (.same hrec (fun d j => (hw.slot d j).trans (hslot d j).symm) (hu.contexts.symm.trans hctx))

theorem Written.linked {u : State} (hw : Written s t c i x) (hu : Linked u) (hslot : ∀ d j, u.slot d j =
    if c = d ∧ i = j then x else s.slot d j) (hrec : t.records = u.records) (hctx : ContextsKept u t) : Linked t :=
  hu.same hrec (fun d j => (hw.slot d j).trans (hslot d j).symm) hctx

/-- A WAITING slot has left its queue. -/
theorem AtWork.leftQueue {w : Option Deadline} (h : AtWork full o (some n) s) (hs : s.slot c i = .waiting n m w)
    (hx : x.liveName = none) (hw : Written s t c i x) (hrec : t.records = (s.leaveQueue n c i).records)
    (hchan : t.channels = s.channels) (hctx : ContextsKept s t)
    (hmarks : ∀ d, MarksLawful s d → o ≠ some d → MarksLawful t d) : AtWork full o (some n) t := by
  have hwait : (s.slot c i).wait = some (n, m) := by rw [hs]; rfl
  obtain ⟨r, hr, -⟩ := h.linked.waiting c i n m hwait
  have hu : Works n s ((s.leaveQueue n c i).setSlot c i x) := .leaveQueue (Slot.liveName_of_wait hwait) hx
  have hslot (d j) : ((s.leaveQueue n c i).setSlot c i x).slot d j = if c = d ∧ i = j then x else s.slot d j := by
    rw [State.slot_setSlot, State.leaveQueue_slot]
  have hworks := hw.works hu hslot hrec hctx
  refine h.work hworks (hw.linked (h.linked.leaveQueue hs hx) hslot hrec (hu.contexts.symm.trans hctx)) hmarks
    fun _ hg => hg.rewrite h.linked hworks.toTouches hr (q := r.dropWaiter c i) ?_ rfl rfl hchan fun y hy => ?_
  · rw [State.find_of_records hrec, State.find_leaveQueue, if_pos rfl, hr]
    rfl
  · rw [hw.slot, if_neg (h.linked.not_holder_of_wait hr hwait y hy)]

/-- A holding slot has left its holder list, and the holder end is reported where it was leased (R92). -/
theorem AtWork.leftHolders (h : AtWork full o (some n) s) (hs : (s.slot c i).holding = some (n, m, g))
    (hx : x.liveName = none) (hw : Written s t c i x) (hrec : t.records = (s.leaveHolders n c i).records)
    (hchan : ∀ k, t.channel k =
      if s.gateOf n = some k ∧ (s.slot c i).leased = true then (s.channel k).holderEnd else s.channel k)
    (hctx : ContextsKept s t) (hmarks : ∀ d, MarksLawful s d → o ≠ some d → MarksLawful t d) : AtWork full o (some n) t := by
  obtain ⟨r, hr, -⟩ := h.linked.holding c i n m g hs
  have hu : Works n s ((s.leaveHolders n c i).setSlot c i x) := .leaveHolders (Slot.liveName_of_holding hs) hx
  have hslot (d j) : ((s.leaveHolders n c i).setSlot c i x).slot d j = if c = d ∧ i = j then x else s.slot d j := by
    rw [State.slot_setSlot, State.leaveHolders_slot]
  have hworks := hw.works hu hslot hrec hctx
  rw [State.gateOf_of_find hr] at hchan
  refine h.work hworks (hw.linked (h.linked.leaveHolders hs hx) hslot hrec (hu.contexts.symm.trans hctx)) hmarks
    fun _ hg => hg.leave h.linked hworks.toTouches hs hr ?_ (fun d j hne => by rw [hw.slot, if_neg hne]) hchan
  rw [State.find_of_records hrec, State.find_leaveHolders, if_pos rfl, hr]
  rfl

/-! ### Waits that end -/

theorem AtWork.dropWait {w : Option Deadline} (h : AtWork full o (some n) s) (hs : s.slot c i = .waiting n m w) :
    AtWork full o (some n) ((s.leaveQueue n c i).setSlot c i .free) := by
  have hw : Written s ((s.leaveQueue n c i).setSlot c i .free) c i .free :=
    Written.of_clients ((s.leaveQueue n c i).written_setSlot c i .free) rfl
  refine h.leftQueue hs rfl hw rfl rfl ((s.leaveQueue n c i).setSlot_recallKept c i .free).client fun d hm _ => ?_
  refine marks_freed hm (by rw [hs]; nofun) (by rw [hs]; rfl) (by rw [hs]; rfl) hw ?_
  rw [State.queue_setSlot]
  rfl

theorem AtWork.endWait {w : Option Deadline} (h : AtWork full o (some n) s) (hs : s.slot c i = .waiting n m w)
    (cause : EndCause) : AtWork full o (some n) (s.endWait c i cause) := by
  rw [State.endWait_of_waiting hs]
  have hset : Written s ((s.leaveQueue n c i).setSlot c i (.ended n m none cause)) c i (.ended n m none cause) :=
    Written.of_clients ((s.leaveQueue n c i).written_setSlot c i _) rfl
  have hw : Written s (((s.leaveQueue n c i).setSlot c i (.ended n m none cause)).post c i .urgent) c i (.ended n m none cause) :=
    hset.post rfl
  refine h.leftQueue hs rfl hw rfl rfl (.trans ((s.leaveQueue n c i).setSlot_recallKept c i _).client
    (State.post_recallKept _ c i .urgent).client) fun d hm _ => ?_
  refine marks_ended (k := .urgent) hm (by rw [hs]; nofun) hw rfl ?_
  rw [State.queue_post, State.queue_setSlot]
  rfl

/-! ### Holding slots that end or are freed -/

theorem Slot.ne_free_of_holding {y : Name × Mode × Gen} (h : x.holding = some y) : x ≠ .free := by
  rintro rfl
  cases h

theorem Slot.eq_gating_of_holding (h : x.holding = some (n, m, g)) (hl : x.leased = false) : x = .gating n m g := by
  cases x with
  | gating => cases h; rfl
  | held | recalled => cases hl
  | free | waiting | ended => cases h

theorem State.holderEnd_contextsKept (s : State) (n : Name) : ContextsKept s (s.holderEnd n) :=
  .of_clients (s.clients_holderEnd n)

theorem State.gateOf_leaveHolders (s : State) (n : Name) (c : ClientId) (i : SlotId) :
    (s.leaveHolders n c i).gateOf n = s.gateOf n := s.gateOf_updateRecord n _ (fun _ => rfl) fun _ => rfl

/-- The channels after the holder end that follows a departure (R92). -/
theorem State.channel_holderEnd_of_left {u : State} (hgate : u.gateOf n = s.gateOf n) (hchan : u.channels = s.channels)
    (hl : (s.slot c i).leased = true) (k : ChannelId) : (u.holderEnd n).channel k =
      if s.gateOf n = some k ∧ (s.slot c i).leased = true then (s.channel k).holderEnd else s.channel k := by
  have hk : u.channel k = s.channel k := congrArg (fun v : Vector Channel 16 => v[k]) hchan
  rw [State.channel_holderEnd, hgate, hk]
  simp only [hl, and_true]

/-- A holding slot ends (R16, R70, R81). -/
theorem AtWork.endHolding (h : AtWork full o (some n) s) (hs : (s.slot c i).holding = some (n, m, g)) (cause : EndCause) :
    AtWork full o (some n) (s.endHolding c i cause) := by
  have hset : Written s ((s.leaveHolders n c i).setSlot c i (.ended n m (some g) cause)) c i (.ended n m (some g) cause) :=
    Written.of_clients ((s.leaveHolders n c i).written_setSlot c i _) rfl
  have hw : Written s (((s.leaveHolders n c i).setSlot c i (.ended n m (some g) cause)).post c i .urgent) c i
      (.ended n m (some g) cause) := hset.post rfl
  have hctx : ContextsKept s (((s.leaveHolders n c i).setSlot c i (.ended n m (some g) cause)).post c i .urgent) :=
    .trans ((s.leaveHolders n c i).setSlot_recallKept c i _).client (State.post_recallKept _ c i .urgent).client
  have hqueue : ((((s.leaveHolders n c i).setSlot c i (.ended n m (some g) cause)).post c i .urgent).client c).queue =
      postEntry i .urgent (s.client c).queue := by
    rw [State.queue_post, State.queue_setSlot]
    rfl
  have hgate : (((s.leaveHolders n c i).setSlot c i (.ended n m (some g) cause)).post c i .urgent).gateOf n = s.gateOf n :=
    s.gateOf_leaveHolders n c i
  have hrec : (((s.leaveHolders n c i).setSlot c i (.ended n m (some g) cause)).post c i .urgent).records =
      (s.leaveHolders n c i).records := rfl
  have hchan : (((s.leaveHolders n c i).setSlot c i (.ended n m (some g) cause)).post c i .urgent).channels = s.channels := rfl
  cases hl : (s.slot c i).leased with
  | true =>
    rw [State.endHolding_of_leased hl hs]
    generalize ((s.leaveHolders n c i).setSlot c i (.ended n m (some g) cause)).post c i .urgent = u at *
    have hclients := u.clients_holderEnd n
    refine h.leftHolders hs rfl (hw.clients hclients) ((u.records_holderEnd n).trans hrec)
      (State.channel_holderEnd_of_left hgate hchan hl) (hctx.trans (u.holderEnd_contextsKept n)) fun d hm _ => ?_
    exact (marks_ended (k := .urgent) hm (Slot.ne_free_of_holding hs) hw rfl hqueue).same hclients
  | false =>
    rw [State.endHolding_of_gating (Slot.eq_gating_of_holding hs hl)]
    generalize ((s.leaveHolders n c i).setSlot c i (.ended n m (some g) cause)).post c i .urgent = u at *
    refine h.leftHolders hs rfl hw hrec (fun k => ?_) hctx fun d hm _ =>
      marks_ended (k := .urgent) hm (Slot.ne_free_of_holding hs) hw rfl hqueue
    rw [if_neg fun e => Bool.false_ne_true (hl.symm.trans e.2)]
    exact congrArg (fun v : Vector Channel 16 => v[k]) hchan

/-- A GATING slot is freed (R27, R68). -/
theorem AtWork.dropGating (h : AtWork full o (some n) s) (hs : s.slot c i = .gating n m g) :
    AtWork full o (some n) ((s.leaveHolders n c i).setSlot c i .free) := by
  have hw : Written s ((s.leaveHolders n c i).setSlot c i .free) c i .free :=
    Written.of_clients ((s.leaveHolders n c i).written_setSlot c i .free) rfl
  have hhold : (s.slot c i).holding = some (n, m, g) := by rw [hs]; rfl
  refine h.leftHolders hhold rfl hw rfl (fun k => ?_)
    ((s.leaveHolders n c i).setSlot_recallKept c i .free).client fun d hm _ => ?_
  · rw [if_neg (by rw [hs]; exact fun e => Bool.false_ne_true e.2)]
    rfl
  · refine marks_freed hm (by rw [hs]; nofun) (by rw [hs]; rfl) (by rw [hs]; rfl) hw ?_
    rw [State.queue_setSlot]
    rfl

/-- A HELD or RECALLED slot is freed, its client's change queue left to the caller (R27). -/
theorem AtWork.dropLeased (h : AtWork full (some c) (some n) s) (hs : (s.slot c i).holding = some (n, m, g))
    (hl : (s.slot c i).leased = true) :
    AtWork full (some c) (some n) (((s.leaveHolders n c i).setSlot c i .free).holderEnd n) := by
  have hw : Written s ((s.leaveHolders n c i).setSlot c i .free) c i .free :=
    Written.of_clients ((s.leaveHolders n c i).written_setSlot c i .free) rfl
  have hclients := ((s.leaveHolders n c i).setSlot c i .free).clients_holderEnd n
  have hchan : ((s.leaveHolders n c i).setSlot c i .free).channels = s.channels := rfl
  refine h.leftHolders hs rfl (hw.clients hclients) (State.records_holderEnd _ n)
    (State.channel_holderEnd_of_left (s.gateOf_leaveHolders n c i) hchan hl)
    (.trans ((s.leaveHolders n c i).setSlot_recallKept c i .free).client (State.holderEnd_contextsKept _ n))
    fun d hm hd => (hw.other (fun e => hd (congrArg some e)) hm).same hclients

/-- A HELD or RECALLED slot is released, and its entry removed (R67, R108). -/
theorem AtWork.releaseLeased (h : AtWork full o (some n) s) (hs : (s.slot c i).holding = some (n, m, g))
    (hl : (s.slot c i).leased = true) :
    AtWork full o (some n) ((((s.leaveHolders n c i).holderEnd n).setSlot c i .free).unpost c i) := by
  have hclients : s.clients = ((s.leaveHolders n c i).holderEnd n).clients := (State.clients_holderEnd (s.leaveHolders n c i) n).symm
  have hw : Written s ((((s.leaveHolders n c i).holderEnd n).setSlot c i .free).unpost c i) c i .free :=
    (Written.of_clients (((s.leaveHolders n c i).holderEnd n).written_setSlot c i .free) hclients.symm).unpost
  have hchan : (s.leaveHolders n c i).channels = s.channels := rfl
  refine h.leftHolders hs rfl hw (State.records_holderEnd _ n)
    (State.channel_holderEnd_of_left (s.gateOf_leaveHolders n c i) hchan hl)
    (.trans (State.holderEnd_contextsKept (s.leaveHolders n c i) n) (.trans (State.setSlot_recallKept _ c i .free).client
      (Moves.unpost (W := NoWait) _ c i).contextsKept)) fun d hm _ => ?_
  refine marks_cleared hm (Slot.ne_free_of_holding hs) hw ?_
  rw [State.unpost, State.client_setQueue, if_pos rfl, State.queue_setSlot, State.client_of_clients hclients.symm]

/-! ### A slot freed with its follow-up -/

/-- A slot that is not live is written FREE. -/
theorem AtWork.dropEnded {a : Option Name} (h : AtWork full (some c) a s) (hs : (s.slot c i).liveName = none) :
    AtWork full (some c) a (s.setSlot c i .free) := by
  have hw := s.written_setSlot c i .free
  refine h.quiet rfl rfl (fun d j => ?_) (s.setSlot_recallKept c i .free).client
    fun d hm hd => hw.other (fun e => hd (congrArg some e)) hm
  rw [State.slot_setSlot]
  split
  · next e => obtain ⟨rfl, rfl⟩ := e; exact .inr ⟨hs, rfl⟩
  · exact .refl _

theorem AtWork.freeSlot (h : AtWork full (some c) none s) (i : SlotId) : AtWork full (some c) none (s.freeSlot c i) := by
  cases hs : s.slot c i with
  | free => rw [State.freeSlot_of_free hs]; exact h
  | waiting n m w => rw [State.freeSlot_of_waiting hs]; exact ((h.begin n).dropWait hs).followUp
  | gating n m g => rw [State.freeSlot_of_gating hs]; exact ((h.begin n).dropGating hs).followUp
  | held n m g l =>
    have hhold : (s.slot c i).holding = some (n, m, g) := by rw [hs]; rfl
    rw [State.freeSlot_of_leased (by rw [hs]; rfl) hhold]
    exact ((h.begin n).dropLeased hhold (by rw [hs]; rfl)).followUp
  | recalled n m g l d =>
    have hhold : (s.slot c i).holding = some (n, m, g) := by rw [hs]; rfl
    rw [State.freeSlot_of_leased (by rw [hs]; rfl) hhold]
    exact ((h.begin n).dropLeased hhold (by rw [hs]; rfl)).followUp
  | ended n m g e => rw [State.freeSlot_of_ended hs]; exact h.dropEnded (by rw [hs]; rfl)

/-- No slot becomes live when one is freed. -/
theorem Linked.freeSlot_live (h : Linked s) (i : SlotId) : (∀ d j k, ((s.freeSlot c i).slot d j).liveName = some k →
      (s.slot d j).liveName = some k) ∧ ((s.freeSlot c i).slot c i).liveName = none := by
  have hdone {u : State} {n : Name} (hu : Linked u) (hworks : Works n s u) (hself : (u.slot c i).liveName = none) :
      (∀ d j k, ((u.followUp n).slot d j).liveName = some k → (s.slot d j).liveName = some k) ∧
        ((u.followUp n).slot c i).liveName = none := by
    have hfollow := hu.works_followUp n
    refine ⟨fun d j k hk => hworks.live d j k (hfollow.live d j k hk), Option.eq_none_iff_forall_ne_some.mpr fun k hk => ?_⟩
    cases hself.symm.trans (hfollow.live c i k hk)
  have hleft {n m g} (hs : (s.slot c i).holding = some (n, m, g)) :
      Linked ((s.leaveHolders n c i).setSlot c i .free) ∧ Works n s ((s.leaveHolders n c i).setSlot c i .free) ∧
        (((s.leaveHolders n c i).setSlot c i .free).slot c i).liveName = none :=
    ⟨h.leaveHolders hs rfl, .leaveHolders (Slot.liveName_of_holding hs) rfl, by simp [Slot.liveName]⟩
  have hleased {n m g} (hl : (s.slot c i).leased = true) (hs : (s.slot c i).holding = some (n, m, g)) :
      (∀ d j k, ((s.freeSlot c i).slot d j).liveName = some k → (s.slot d j).liveName = some k) ∧
        ((s.freeSlot c i).slot c i).liveName = none := by
    obtain ⟨hu, hworks, hself⟩ := hleft hs
    rw [State.freeSlot_of_leased hl hs]
    refine hdone (hu.holderEnd n) (hworks.trans (.holderEnd _ n n)) ?_
    rw [State.slot_of_clients (State.clients_holderEnd _ n)]
    exact hself
  cases hs : s.slot c i with
  | free =>
    rw [State.freeSlot_of_free hs, hs]
    exact ⟨fun _ _ _ => id, rfl⟩
  | waiting n m w =>
    rw [State.freeSlot_of_waiting hs]
    exact hdone (h.leaveQueue hs rfl) (.leaveQueue (by rw [hs]; rfl) rfl) (by simp [Slot.liveName])
  | gating n m g =>
    obtain ⟨hu, hworks, hself⟩ := hleft (n := n) (m := m) (g := g) (by rw [hs]; rfl)
    rw [State.freeSlot_of_gating hs]
    exact hdone hu hworks hself
  | held n m g l => exact hleased (by rw [hs]; rfl) (by rw [hs]; rfl)
  | recalled n m g l d => exact hleased (by rw [hs]; rfl) (by rw [hs]; rfl)
  | ended n m g e =>
    rw [State.freeSlot_of_ended hs]
    refine ⟨fun d j k hk => ?_, by simp [Slot.liveName]⟩
    rw [State.slot_setSlot] at hk
    split at hk
    · cases hk
    · exact hk

/-- Some slots of a client freed one after the other: afterwards they are not live. -/
theorem AtWork.freeSlots (l : List SlotId) : ∀ {s : State}, AtWork full (some c) none s →
    AtWork full (some c) none (s.freeSlots c l) ∧
      (∀ d j k, ((s.freeSlots c l).slot d j).liveName = some k → (s.slot d j).liveName = some k) ∧
      ∀ i ∈ l, ((s.freeSlots c l).slot c i).liveName = none := by
  induction l with
  | nil =>
    intro s h
    unfold State.freeSlots
    exact ⟨h, fun _ _ _ => id, nofun⟩
  | cons i l ih =>
    intro s h
    have hcons : s.freeSlots c (i :: l) = (s.freeSlot c i).freeSlots c l := by
      unfold State.freeSlots
      rfl
    obtain ⟨hstep, hself⟩ := h.linked.freeSlot_live (c := c) i
    obtain ⟨hrest, hlive, hall⟩ := ih (h.freeSlot i)
    rw [hcons]
    refine ⟨hrest, fun d j k hk => hstep d j k (hlive d j k hk), fun j hj => ?_⟩
    obtain rfl | hj := List.mem_cons.mp hj
    · refine Option.eq_none_iff_forall_ne_some.mpr fun k hk => ?_
      cases hself.symm.trans (hlive c j k hk)
    · exact hall j hj

/-! ### Client contexts rewritten -/

/-- The context of a client without a live slot is rewritten, idle. -/
theorem AtWork.setIdle {y : Client} (h : AtWork full (some c) none s) (hidle : ∀ i, (s.slot c i).liveName = none)
    (hslots : ∀ i : SlotId, y.slots[i] = .free) (hqueue : y.queue = []) : AtWork full none none (s.setClient c y) := by
  have hslot (d : ClientId) (i : SlotId) : (s.slot d i).Same ((s.setClient c y).slot d i) := by
    rw [s.slot_setClient]
    split
    · next e => subst e; exact .inr ⟨hidle i, by rw [hslots]; rfl⟩
    · exact .refl _
  have hother {d : ClientId} (hd : c ≠ d) : (s.setClient c y).client d = s.client d := by
    rw [State.client_setClient, if_neg hd]
  have hne {d : ClientId} {i : SlotId} (hl : (s.slot d i).liveName ≠ none) : c ≠ d := by
    rintro rfl
    exact hl (hidle i)
  refine ⟨Linked.congr (s := s) rfl (fun d i => (hslot d i).wait) (fun d i => (hslot d i).holding) (fun d i hw => ?_) h.linked,
    fun d _ => ?_, h.settled, fun hf => RanksLawful.mono (s := s) (t := s.setClient c y) (fun d i k hk => (hslot d i).liveName ▸ hk)
      (fun d i hw => (hslot d i).isWaiting ▸ hw) (fun _ _ r hr _ => ⟨r, hr, rfl, rfl⟩) (h.ranks hf),
    fun hf => GateLaws.congr (s := s) (t := s.setClient c y) (h.gates hf) h.linked rfl rfl fun d i hw => ?_,
    fun hf k r hk hr x hx hrec => ?_⟩
  · have hd : c ≠ d := hne fun e => hw (Slot.wait_of_not_live e)
    rw [hother hd]
  · by_cases hd : c = d
    · subst hd
      have hq : ((s.setClient c y).client c).queue = [] := by rw [State.client_setClient, if_pos rfl, hqueue]
      have hfree (i : SlotId) : (s.setClient c y).slot c i = .free := by rw [s.slot_setClient, if_pos rfl, hslots]
      have hmark (i : SlotId) : (s.setClient c y).changedMark c i = false := by
        unfold State.changedMark
        rw [hq]
        rfl
      refine ⟨by rw [hq]; exact ⟨.nil, .nil⟩, fun i he => ?_, fun i hm => ?_, fun _ => ⟨hq, hfree⟩⟩
      · rw [hfree] at he; cases he
      · rw [hmark] at hm; cases hm
    · refine (h.marks d fun e => hd (Option.some.inj e)).alike ?_ ?_ fun i => ?_
      · rw [hother hd]
      · rw [hother hd]
      · rw [s.slot_setClient, if_neg hd]
  · have hd : c ≠ d := hne fun e => hw (Slot.holding_of_not_live e)
    rw [hother hd]
    exact ⟨(hslot d i).leased, (hslot d i).isGating, rfl⟩
  · rw [(hslot _ _).isRecalled] at hrec
    have hlive := Slot.liveName_of_holding ((h.linked.record k r hr).holders x hx)
    have hd : c ≠ x.client := hne (by rw [hlive]; nofun)
    rw [hother hd]
    exact h.recalls hf k r hk hr x hx hrec

/-- The context of a client is rewritten but for what the laws read. -/
theorem AtWork.setContext {y : Client} (h : AtWork full o none s) (hslots : y.slots = (s.client c).slots)
    (hqueue : y.queue = (s.client c).queue) (hpriority : y.priority = (s.client c).priority)
    (hbranch : y.branch = (s.client c).branch) (hstate : y.state = .closed → (s.client c).state = .closed) :
    AtWork full o none (s.setClient c y) := by
  have hslot := s.slot_setClient_of_slots c hslots
  have hclient (d : ClientId) : ((s.setClient c y).client d).priority = (s.client d).priority ∧
      ((s.setClient c y).client d).branch = (s.client d).branch ∧ ((s.setClient c y).client d).queue = (s.client d).queue ∧
      (((s.setClient c y).client d).state = .closed → (s.client d).state = .closed) := by
    rw [State.client_setClient]
    split
    · next e => subst e; exact ⟨hpriority, hbranch, hqueue, hstate⟩
    · exact ⟨rfl, rfl, rfl, id⟩
  refine ⟨h.linked.setClient hslots hpriority, fun d hd => ?_, h.settled,
    fun hf => RanksLawful.mono (s := s) (t := s.setClient c y) (fun d i k hk => hslot d i ▸ hk) (fun d i hw => hslot d i ▸ hw)
      (fun _ _ r hr _ => ⟨r, hr, rfl, rfl⟩) (h.ranks hf),
    fun hf => GateLaws.congr (s := s) (t := s.setClient c y) (h.gates hf) h.linked rfl rfl fun d i _ => by
      rw [hslot]; exact ⟨rfl, rfl, (hclient d).2.1⟩,
    fun hf k r hk hr x hx hrec => ?_⟩
  · have hm := h.marks d hd
    obtain ⟨-, -, hq, hc⟩ := hclient d
    have hmark (i : SlotId) : (s.setClient c y).changedMark d i = s.changedMark d i := by
      unfold State.changedMark
      rw [hq]
    exact ⟨hq ▸ hm.queue, fun i he => by rw [hmark]; exact hm.ended i (hslot d i ▸ he),
      fun i he => by rw [hslot]; exact hm.marked i (hmark i ▸ he),
      fun e => ⟨hq.trans (hm.closed (hc e)).1, fun i => (hslot d i).trans ((hm.closed (hc e)).2 i)⟩⟩
  · rw [hslot] at hrec
    rw [(hclient _).1]
    exact h.recalls hf k r hk hr x hx hrec

end

end Sys2Proof.Machine
end

section
/-! PROOFS. The deadlines, the fault, and the requests on slots, each keeping the laws of a state at work. -/

namespace Sys2Proof.Machine

open Sys2Proof.Claims Sys2Proof.Safety

section

variable {s : State} {n : Name} {c : ClientId} {i : SlotId} {m : Mode} {g : Gen} {full : Prop} {o : Option ClientId}

/-! ### Slots whose deadlines change -/

theorem Slot.core_withLease (x : Slot) (l : Name → Deadline) : (x.withLease l).core = x.core := by
  cases x <;> rfl

theorem Slot.isRecalled_withLease (x : Slot) (l : Name → Deadline) : (x.withLease l).isRecalled = x.isRecalled := by
  cases x <;> rfl

theorem Slot.isRecalled_slotAt (now : Clock) (x : Slot) : (slotAt now x).isRecalled = x.isRecalled := by
  cases x with
  | waiting n m w => cases w <;> rfl
  | _ => rfl

/-- A slot is written with another deadline (R48, R63). -/
theorem AtWork.rewriteSlot {a : Option Name} {x : Slot} (h : AtWork full o a s) (hcore : x.core = (s.slot c i).core)
    (hrec : x.isRecalled = (s.slot c i).isRecalled) : AtWork full o a (s.setSlot c i x) := by
  have hsame (d : ClientId) (j : SlotId) : ((s.setSlot c i x).slot d j).core = (s.slot d j).core ∧
      ((s.setSlot c i x).slot d j).isRecalled = (s.slot d j).isRecalled := by
    rw [State.slot_setSlot]
    split
    · next e => obtain ⟨rfl, rfl⟩ := e; exact ⟨hcore, hrec⟩
    · exact ⟨rfl, rfl⟩
  have hctx := (s.setSlot_recallKept c i x).client
  exact h.quiet rfl rfl (fun d j => .inl (hsame d j)) hctx fun d hm _ =>
    hm.alike (ContextsKept.state hctx d) (s.queue_setSlot c d i x) fun j => (hsame d j).1

theorem AtWork.renewSlot (h : AtWork full o none s) (c : ClientId) (i : SlotId) : AtWork full o none (s.renewSlot c i) := by
  rw [State.renewSlot_eq]
  exact h.rewriteSlot (Slot.core_withLease _ _) (Slot.isRecalled_withLease _ _)

/-- The clock advances (R59). -/
theorem AtWork.clockAt (h : AtWork full o none s) (now : Clock) : AtWork full o none (s.clockAt now) := by
  have hclient := s.client_clockAt now
  have hslot := s.slot_clockAt now
  refine h.quiet rfl rfl (fun d j => ?_) (fun d => by rw [hclient]) fun d hm _ => hm.alike ?_ ?_ fun j => ?_
  · rw [hslot]
    exact .inl ⟨Slot.core_slotAt _ _, Slot.isRecalled_slotAt _ _⟩
  · rw [hclient]
  · rw [hclient]
  · rw [hslot]
    exact Slot.core_slotAt _ _

/-! ### The deadlines -/

theorem AtWork.waitDeadline (h : AtWork full o none s) (c : ClientId) (i : SlotId) : AtWork full o none (s.waitDeadline c i) := by
  by_cases hex : ∃ n m v, s.slot c i = .waiting n m (some ⟨v, true⟩)
  · obtain ⟨n, m, v, hs⟩ := hex
    rw [State.waitDeadline_raised hs]
    exact ((h.begin n).endWait hs .timeout).followUp
  · rw [State.waitDeadline_not_raised fun n m v hs => hex ⟨n, m, v, hs⟩]
    exact h

theorem AtWork.expire (h : AtWork full o none s) (c : ClientId) (i : SlotId) : AtWork full o none (s.expire c i) := by
  by_cases hex : ∃ n m g v, s.slot c i = .held n m g ⟨v, true⟩ ∨ ∃ d, s.slot c i = .recalled n m g ⟨v, true⟩ d
  · obtain ⟨n, m, g, v, hs⟩ := hex
    have hhold : (s.slot c i).holding = some (n, m, g) := by
      obtain hs | ⟨d, hs⟩ := hs <;> rw [hs] <;> rfl
    rw [State.expire_raised hs]
    exact ((h.begin n).endHolding hhold .expired).followUp
  · rw [State.expire_not_raised (fun n m g v hs => hex ⟨n, m, g, v, .inl hs⟩)
      fun n m g v d hs => hex ⟨n, m, g, v, .inr ⟨d, hs⟩⟩]
    exact h

theorem AtWork.revoke (h : AtWork full o none s) (c : ClientId) (i : SlotId) : AtWork full o none (s.revoke c i) := by
  by_cases hex : ∃ n m g l v, s.slot c i = .recalled n m g l ⟨v, true⟩
  · obtain ⟨n, m, g, l, v, hs⟩ := hex
    rw [State.revoke_raised hs]
    exact ((h.begin n).endHolding (by rw [hs]; rfl) .revoked).followUp
  · rw [State.revoke_not_raised fun n m g l v hs => hex ⟨n, m, g, l, v, hs⟩]
    exact h

/-! ### A port's fault and its end -/

theorem AtWork.suspend (h : AtWork full o none s) (c : ClientId) :
    AtWork full o none (s.setClient c { s.client c with state := .suspect }) := h.setContext rfl rfl rfl rfl nofun

theorem AtWork.faultClient (h : AtWork full o none s) (p : Port) (c : ClientId) : AtWork full o none (s.faultClient p c) := by
  obtain ⟨-, e⟩ | ⟨t, -, -, e, ⟨-, rfl⟩ | ⟨i, n, m, w, hs, rfl⟩⟩ := s.faultClient_cases p c
  · rw [e]; exact h
  · rw [e]; exact h.suspend c
  · rw [e]; exact ((h.begin n).endWait hs .link).followUp.suspend c

theorem AtWork.reopen (h : AtWork full o none s) (p : Port) (c : ClientId) : AtWork full o none (s.reopen p c) := by
  obtain e | ⟨-, e⟩ := s.reopen_cases p c
  · rw [e]; exact h
  · rw [e]; exact h.setContext rfl rfl rfl rfl nofun

/-! ### CANCEL, RELEASE, RENEW and FETCH -/

/-- An ENDED slot is freed, and its entry removed (R52, R69). -/
theorem AtWork.clearEnded {x : Option Gen} {e : EndCause} (h : AtWork full o none s) (hs : s.slot c i = .ended n m x e) :
    AtWork full o none ((s.setSlot c i .free).unpost c i) := by
  have hw : Written s ((s.setSlot c i .free).unpost c i) c i .free := (s.written_setSlot c i .free).unpost
  refine h.quiet rfl rfl (fun d j => ?_) (.trans (s.setSlot_recallKept c i .free).client
    (Moves.unpost (W := NoWait) _ c i).contextsKept) fun d hm _ => marks_cleared hm (by rw [hs]; nofun) hw ?_
  · rw [hw.slot]
    split
    · next e => obtain ⟨rfl, rfl⟩ := e; exact .inr ⟨by rw [hs]; rfl, rfl⟩
    · exact .refl _
  · rw [State.unpost, State.client_setQueue, if_pos rfl, State.queue_setSlot]

theorem AtWork.carryCancel (h : AtWork full o none s) (c : ClientId) (slot : Byte) :
    AtWork full o none (carryCancel c slot s).1 := by
  cases hi : slotOf slot with
  | none => rw [carryCancel_of_slot_above s c ((slotOf_eq_none_iff slot).mp hi)]; exact h
  | some i =>
    have hi := (slotOf_eq_some_iff slot i).mp hi
    cases hs : s.slot c i with
    | waiting n m w => rw [carryCancel_of_waiting hi hs]; exact ((h.begin n).dropWait hs).followUp
    | ended n m x e => rw [carryCancel_of_ended hi hs]; exact h.clearEnded hs
    | free | gating | held | recalled =>
      rw [carryCancel_of_other hi (by rw [hs]; rfl) (by rw [hs]; rfl)]
      exact h

theorem AtWork.carryRelease (h : AtWork full o none s) (c : ClientId) (slot : Byte) :
    AtWork full o none (carryRelease c slot s).1 := by
  have hleased {i : SlotId} {n : Name} {m : Mode} {g : Gen} (hi : slot.toNat = i.val) (hl : (s.slot c i).leased = true)
      (hs : (s.slot c i).holding = some (n, m, g)) : AtWork full o none (Machine.carryRelease c slot s).1 := by
    rw [carryRelease_of_leased hi hl hs]
    exact ((h.begin n).releaseLeased hs hl).followUp
  cases hi : slotOf slot with
  | none => rw [carryRelease_of_slot_above s c ((slotOf_eq_none_iff slot).mp hi)]; exact h
  | some i =>
    have hi := (slotOf_eq_some_iff slot i).mp hi
    cases hs : s.slot c i with
    | held n m g l => exact hleased hi (by rw [hs]; rfl) (by rw [hs]; rfl)
    | recalled n m g l d => exact hleased hi (by rw [hs]; rfl) (by rw [hs]; rfl)
    | gating n m g => rw [carryRelease_of_gating hi hs]; exact ((h.begin n).dropGating hs).followUp
    | ended n m x e => rw [carryRelease_of_ended hi hs]; exact h.clearEnded hs
    | free => rw [carryRelease_of_not_holding hi (.inl hs)]; exact h
    | waiting => rw [carryRelease_of_not_holding hi (.inr (by rw [hs]; rfl))]; exact h

theorem AtWork.carryRenew (h : AtWork full o none s) (c : ClientId) (slot : Byte) :
    AtWork full o none (carryRenew c slot s).1 := by
  unfold Machine.carryRenew
  split
  · exact h
  · split
    · exact h.renewSlot c _
    · exact h.renewSlot c _
    all_goals exact h

theorem AtWork.carryRenewAll (h : AtWork full o none s) (c : ClientId) : AtWork full o none (carryRenewAll c s).1 := by
  unfold Machine.carryRenewAll
  generalize allSlots = l
  exact List.foldlRecOn l _ (motive := fun t : State => AtWork full o none t) h fun t ht i _ => ht.renewSlot c i

/-- The head entry leaves a change queue, its slot not ENDED (R110). -/
theorem MarksLawful.popped {e : Entry} {rest : List Entry} (h : MarksLawful s c) (hq : (s.client c).queue = e :: rest)
    (hs : (s.slot c e.slot).isEnded = false) : MarksLawful (s.setQueue c rest) c := by
  have hqueue : ((s.setQueue c rest).client c).queue = rest := by rw [State.client_setQueue, if_pos rfl]
  have hmark (j : SlotId) : (s.setQueue c rest).changedMark c j = true ↔ ∃ x ∈ rest, x.slot = j := by
    rw [State.changedMark_iff, hqueue]
  have hstate : ((s.setQueue c rest).client c).state = (s.client c).state := by rw [State.client_setQueue, if_pos rfl]
  refine ⟨by rw [hqueue]; exact h.queue.sublist (hq ▸ List.sublist_cons_self e rest), fun j he => ?_, fun j hj => ?_, fun hc => ?_⟩
  · rw [State.slot_setQueue] at he
    obtain ⟨x, hx, rfl⟩ := (s.changedMark_iff c j).mp (h.ended j he)
    rw [hq] at hx
    obtain rfl | hx := List.mem_cons.mp hx
    · rw [hs] at he; cases he
    · exact (hmark _).mpr ⟨x, hx, rfl⟩
  · obtain ⟨x, hx, rfl⟩ := (hmark j).mp hj
    rw [State.slot_setQueue]
    exact h.marked _ ((s.changedMark_iff c _).mpr ⟨x, hq ▸ List.mem_cons_of_mem e hx, rfl⟩)
  · rw [hstate] at hc
    cases hq.symm.trans (h.closed hc).1

theorem removeEntry_head {e : Entry} {rest : List Entry} (h : QueueLawful (e :: rest)) : removeEntry e.slot (e :: rest) = rest := by
  obtain ⟨hnew, -⟩ := List.nodup_cons.mp h.1
  unfold removeEntry
  rw [List.filter_cons_of_neg (by simp)]
  refine List.filter_eq_self.mpr fun x hx => bne_iff_ne.mpr fun he => hnew ?_
  exact List.mem_map.mpr ⟨x, hx, he⟩

theorem AtWork.carryFetch (h : AtWork full none none s) (c : ClientId) : AtWork full none none (carryFetch c s).1 := by
  cases hq : (s.client c).queue with
  | nil => rw [carryFetch_of_nil hq]; exact h
  | cons e rest =>
    have hctx := (Move.queue (W := NoWait) (s := s) (t := s.setQueue c rest) c rest rfl rfl).contextsKept
    have hother {d : ClientId} (hd : c ≠ d) : ((s.setQueue c rest).client d).queue = (s.client d).queue := by
      rw [State.client_setQueue, if_neg hd]
    rw [carryFetch_of_cons hq]
    cases hs : (s.slot c e.slot).isEnded with
    | true =>
      have hset := (s.setQueue c rest).written_setSlot c e.slot .free
      have hw : Written s ((s.setQueue c rest).setSlot c e.slot .free) c e.slot .free :=
        ⟨fun d => (hset.state d).trans (ContextsKept.state hctx d), fun d j => by rw [hset.slot, State.slot_setQueue],
          fun d hd => (hset.queue d hd).trans (hother hd)⟩
      have hslot : (s.slot c e.slot).liveName = none ∧ s.slot c e.slot ≠ .free := by
        cases hx : s.slot c e.slot with
        | ended => exact ⟨rfl, nofun⟩
        | free | waiting | gating | held | recalled => rw [hx] at hs; cases hs
      refine h.quiet (t := (s.setQueue c rest).setSlot c e.slot .free) rfl rfl (fun d j => ?_)
        (.trans hctx ((s.setQueue c rest).setSlot_recallKept c e.slot .free).client) fun d hm _ => ?_
      · rw [hw.slot]
        split
        · next e => obtain ⟨rfl, rfl⟩ := e; exact .inr ⟨hslot.1, rfl⟩
        · exact .refl _
      · refine marks_cleared hm hslot.2 hw ?_
        have hlaw := (h.marks c nofun).queue
        rw [hq] at hlaw
        rw [hq, removeEntry_head hlaw, State.queue_setSlot, State.client_setQueue, if_pos rfl]
    | false =>
      refine h.quiet (t := s.setQueue c rest) rfl rfl (fun d j => by rw [State.slot_setQueue]; exact .refl _) hctx fun d hm _ => ?_
      by_cases hd : c = d
      · subst hd
        exact hm.popped hq hs
      · exact hm.alike (ContextsKept.state hctx d) (hother hd) fun j => by rw [State.slot_setQueue]

end

end Sys2Proof.Machine
end

section
/-! PROOFS. ACQUIRE keeps the laws of a state at work (R40 to R51). -/

namespace Sys2Proof.Machine

open Sys2Proof.Claims Sys2Proof.Safety

section

variable {s : State} {n : Name} {r : Record} {c : ClientId} {i : SlotId} {m : Mode} {full : Prop}

theorem State.enqueue_contextsKept (s : State) (c : ClientId) (i : SlotId) (n : Name) (m : Mode) :
    ContextsKept s (s.enqueue c i n m) := (Moves.enqueue (W := fun _ _ => True) s c i n m trivial).contextsKept

theorem Touches.enqueue (hfree : s.slot c i = .free) : Touches n s (s.enqueue c i n m) where
  find k hk := by rw [s.find_enqueue, if_neg hk]
  slot d j k _ hx := by
    rw [s.slot_enqueue, if_neg]
    rintro ⟨rfl, rfl⟩
    rw [hfree] at hx
    cases hx
  contexts := s.enqueue_contextsKept c i n m

theorem State.written_enqueue (s : State) (c : ClientId) (i : SlotId) (n : Name) (m : Mode) :
    Written s (s.enqueue c i n m) c i (.waiting n m none) where
  state := ContextsKept.state (s.enqueue_contextsKept c i n m)
  slot d j := s.slot_enqueue c d i j n m
  queue d _ := s.queue_setSlot c d i _

/-- A FREE slot becomes WAITING, and has no entry (R108). -/
theorem marks_enqueue {d : ClientId} (h : MarksLawful s d) (hfree : s.slot c i = .free) (hopen : (s.client c).state ≠ .closed) :
    MarksLawful (s.enqueue c i n m) d := by
  have hw := s.written_enqueue c i n m
  by_cases hd : c = d
  · subst hd
    refine hw.kept h hopen (s.queue_setSlot c c i _) rfl fun hm => ?_
    rw [h.not_marked (by rw [hfree]; rfl) (by rw [hfree]; rfl)] at hm
    cases hm
  · exact hw.other hd h

/-- An admitted request joins the wait queue (R40, R44). -/
theorem AtWork.enqueue (h : AtWork full none (some n) s) (hr : s.find n = some r) (hadm : s.admission c r m = .ok i)
    (hopen : (s.client c).state ≠ .closed) : AtWork full none (some n) (s.enqueue c i n m) := by
  obtain ⟨hd, -, hwait, hlive, hblocked, hfirst⟩ := State.admission_ok hadm
  rw [State.find_name hr] at hlive
  have hfree := (State.lowestFree_of_firstFree hfirst).1
  have htouch : Touches n s (s.enqueue c i n m) := .enqueue hfree
  refine h.touch htouch (h.linked.enqueue hr hd hfree m) (fun _ hm _ => marks_enqueue hm hfree hopen)
    (fun _ => ranksLawful_enqueue h.linked hr hwait hlive hblocked) fun _ hg =>
      hg.rewrite h.linked htouch hr (State.find_enqueue_self hr) rfl rfl rfl fun x hx => ?_
  rw [s.slot_enqueue, if_neg (h.linked.not_holder_of_holding_none hr (by rw [hfree]; rfl) x hx)]

/-- The answer to an admitted request, and recall evaluation (R48 to R51). -/
theorem AtWork.answerAcquire {limit : Half} (h : AtWork full none none s) (hr : s.find n = some r)
    (hadm : s.admission c r m = .ok i) (hopen : (s.client c).state ≠ .closed) (k : Nat) :
    AtWork full none none (((s.enqueue c i n m).grantPass (some c) n).answerAcquire c i n m limit k).1 := by
  obtain ⟨hd, -, -, -, -, hfirst⟩ := State.admission_ok hadm
  have hfree := (State.lowestFree_of_firstFree hfirst).1
  have hsettled := h.settled n r nofun hr
  have hjoined := (h.begin n).enqueue hr hadm hopen
  have hfound : (s.enqueue c i n m).find n = some (s.joined c i m r) := State.find_enqueue_self hr
  have hpass := hjoined.grantPass (some c)
  have hpassed := hjoined.linked.settled_grantPass hfound (fun e => absurd e hd) (some c)
  by_cases hgrant : GrantedAtOnce s c r m
  · rw [State.grantPass_enqueue_of_granted hr hsettled.1 hgrant] at hpass hpassed ⊢
    have hslot : ((s.enqueue c i n m).grant (some c) n (s.entry c i m) r.waiters).slot c i =
        (s.enqueue c i n m).grantedSlot n (s.entry c i m) r.waiters := by rw [State.slot_grant, if_pos ⟨rfl, rfl⟩]
    have hhold := State.holding_grantedSlot (s.enqueue c i n m) n (s.entry c i m) r.waiters
    have hnew := State.isRecalled_grantedSlot (s.enqueue c i n m) n (s.entry c i m) r.waiters
    rw [State.answerAcquire_of_holding (by rw [hslot]; exact hhold) (by rw [hslot]; exact hnew)]
    exact hpass.evalRecall hpassed
  · rw [State.grantPass_enqueue_of_not_granted hr (h.linked.record n r hr).ordered hsettled.1 hgrant] at hpass hpassed ⊢
    have hslot : (s.enqueue c i n m).slot c i = .waiting n m none := by rw [s.slot_enqueue, if_pos ⟨rfl, rfl⟩]
    rw [State.answerAcquire_of_waiting (by rw [hslot]; rfl)]
    split
    · rw [h.linked.leaveQueue_enqueue hfree]
      refine (h.begin n).evalRecall fun q hq => ?_
      cases hr.symm.trans hq
      exact hsettled
    · split
      · exact hpass.evalRecall hpassed
      · exact (hpass.rewriteSlot (by rw [hslot]; rfl) (by rw [hslot]; rfl)).evalRecall hpassed

theorem AtWork.carryAcquire (h : AtWork full none none s) (n : Name) (mode : Byte) (limit : Half)
    (hopen : (s.client c).state ≠ .closed) : AtWork full none none (carryAcquire c n mode limit s).1 := by
  obtain ⟨st, e⟩ | ⟨m, r, i, -, -, hr, hadm, e⟩ := carryAcquire_cases s c n mode limit
  · rw [e]; exact h
  · rw [e]; exact h.answerAcquire hr hadm hopen _

end

end Sys2Proof.Machine
end

section
/-! PROOFS. AMEND and RETIRE keep the laws of a state at work (R9 to R17). -/

namespace Sys2Proof.Machine

open Sys2Proof.Claims Sys2Proof.Safety

section

variable {s t : State} {n : Name} {r : Record} {c : ClientId} {i : SlotId} {full : Prop} {o : Option ClientId}

/-! ### AMEND -/

theorem Touches.update {f : Record → Record} (hname : ∀ r, (f r).name = r.name) : Touches n s (s.updateRecord n f) where
  find k hk := by rw [s.find_updateRecord n k f hname, if_neg hk]
  slot _ _ _ _ _ := rfl
  contexts := .of_clients rfl

/-- What an AMEND comes to: a refusal, or the four values written, with the grant pass and recall evaluation (R10, R11). -/
theorem carryAmend_cases (s : State) (c : ClientId) (a : AmendParams) :
    (carryAmend c a s).1 = s ∨ ∃ rank r, amendAccepted a = some rank ∧ s.find a.name = some r ∧ amendRefused r a rank = none ∧
      (carryAmend c a s).1 =
        ((s.updateRecord a.name (amendedRecord a rank)).grantPass none a.name).evalRecall a.name := by
  unfold carryAmend
  split
  · exact .inl rfl
  · split
    · exact .inl rfl
    · next rank hacc =>
      split
      · exact .inl rfl
      · next r hr =>
        split
        · exact .inl rfl
        · next hpass => exact .inr ⟨rank, r, hacc, hr, hpass, rfl⟩

section

variable {a : AmendParams} {rank : Fin 16}

/-- An amended record has lawful fields and no more holders than its share limit (R2, R9, R10). -/
theorem amendedRecord_lawful (hacc : amendAccepted a = some rank) (hpass : amendRefused r a rank = none)
    (hf : FieldsLawful r) (hl : HoldersLawful r) : FieldsLawful (amendedRecord a rank r) ∧ HoldersLawful (amendedRecord a rank r) := by
  have hparams := mt (amendAccepted_eq_none_iff a).mpr (by rw [hacc]; nofun)
  simp only [not_or, not_lt] at hparams
  obtain ⟨-, hlease, hzero, hmax, -⟩ := hparams
  have hpos : a.shareLimit.toNat ≠ 0 := fun e => hzero (BitVec.eq_of_toNat_eq e)
  rw [amendRefused_eq r a rank (amendAccepted_eq_some hacc)] at hpass
  split at hpass
  · cases hpass
  · next hgate =>
    split at hpass
    · cases hpass
    · next hheld =>
      obtain ⟨hname, -⟩ := hf
      refine ⟨⟨hname, hlease, Nat.one_le_iff_ne_zero.mpr hpos, hmax, fun hg => ?_⟩, le_of_not_gt hheld, hl.2⟩
      have hone : a.shareLimit = 1#8 := by
        by_contra hne
        exact hgate ⟨Option.isSome_iff_ne_none.mp hg, hne⟩
      show a.shareLimit.toNat = 1
      rw [hone]
      rfl

/-- A rank changes only where the resource has no holder and no waiter (R9, check 5). -/
theorem rank_of_amendRefused (hacc : amendAccepted a = some rank) (hpass : amendRefused r a rank = none)
    (hbusy : r.holders ≠ [] ∨ r.waiters ≠ []) : rank = r.rank := by
  rw [amendRefused_eq r a rank (amendAccepted_eq_some hacc)] at hpass
  split at hpass
  · cases hpass
  · split at hpass
    · cases hpass
    · split at hpass
      · cases hpass
      · next hrank =>
        refine Fin.ext ((amendAccepted_eq_some hacc).symm.trans ?_)
        by_contra hne
        exact hrank ⟨hne, hbusy⟩

/-- The record of a live slot's resource has a holder or a waiter (R29). -/
theorem Linked.busy_of_live (h : Linked s) (hr : s.find n = some r) (hlive : (s.slot c i).liveName = some n) :
    r.holders ≠ [] ∨ r.waiters ≠ [] := by
  obtain ⟨m, hw⟩ | ⟨m, g, hh⟩ := Slot.wait_or_holding_of_live hlive
  · obtain ⟨q, hq, hmem⟩ := h.waiting c i n m hw
    cases hr.symm.trans hq
    exact .inr (List.ne_nil_of_mem hmem)
  · obtain ⟨q, hq, hmem⟩ := h.holding c i n m g hh
    cases hr.symm.trans hq
    exact .inl (List.ne_nil_of_mem hmem)

theorem AtWork.amend (h : AtWork full o none s) (hacc : amendAccepted a = some rank) (hr : s.find a.name = some r)
    (hpass : amendRefused r a rank = none) :
    AtWork full o none (((s.updateRecord a.name (amendedRecord a rank)).grantPass none a.name).evalRecall a.name) := by
  have hbacked := h.linked.record a.name r hr
  obtain ⟨hfields, hlimits⟩ := amendedRecord_lawful hacc hpass hbacked.fields hbacked.limits
  have hfind (k : Name) : (s.updateRecord a.name (amendedRecord a rank)).find k =
      if k = a.name then some (amendedRecord a rank r) else s.find k := by
    rw [s.find_updateRecord a.name k (amendedRecord a rank) fun _ => rfl, hr]
    rfl
  have hfound : (s.updateRecord a.name (amendedRecord a rank)).find a.name = some (amendedRecord a rank r) := by
    rw [hfind, if_pos rfl]
  have htouch : Touches a.name s (s.updateRecord a.name (amendedRecord a rank)) := .update fun _ => rfl
  have hranks (d j) (x) (hx : x ∈ (s.updateRecord a.name (amendedRecord a rank)).records)
      (hlive : (s.slot d j).liveName = some x.name) : ∃ q ∈ s.records, q.name = x.name ∧ q.rank = x.rank := by
    obtain ⟨q, hq, rfl⟩ := List.mem_map.mp hx
    refine ⟨q, hq, ?_⟩
    by_cases hn : q.name = a.name
    · have hqr : q = r := by
        have hself := State.find_of_mem h.linked.ascending hq
        rw [hn, hr] at hself
        exact (Option.some.inj hself).symm
      subst hqr
      rw [if_pos hn] at hlive ⊢
      have hlive' : (s.slot d j).liveName = some a.name := hlive.trans (congrArg some hn)
      exact ⟨rfl, (rank_of_amendRefused hacc hpass (h.linked.busy_of_live hr hlive')).symm⟩
    · rw [if_neg hn]
      exact ⟨rfl, rfl⟩
  have hlinked : Linked (s.updateRecord a.name (amendedRecord a rank)) := h.linked.rewrite hr hfind
    (s.names_updateRecord a.name _ fun _ => rfl) rfl rfl rfl hfields hlimits hbacked.draining
  have hwritten : AtWork full o (some a.name) (s.updateRecord a.name (amendedRecord a rank)) :=
    (h.begin a.name).touch htouch hlinked (fun _ hm _ => hm.same rfl)
      (fun _ hl => RanksLawful.mono (s := s) (t := s.updateRecord a.name (amendedRecord a rank)) (fun _ _ _ => id)
        (fun _ _ => id) hranks hl)
      fun _ hg => hg.rewrite h.linked htouch hr hfound rfl rfl rfl fun _ _ => rfl
  obtain ⟨-, hdraining⟩ := h.settled a.name r nofun hr
  exact (hwritten.grantPass none).evalRecall (hlinked.settled_grantPass hfound hdraining none)

theorem AtWork.carryAmend (h : AtWork full o none s) (c : ClientId) (a : AmendParams) :
    AtWork full o none (carryAmend c a s).1 := by
  obtain e | ⟨rank, r, hacc, hr, hpass, e⟩ := carryAmend_cases s c a
  · rw [e]; exact h
  · rw [e]; exact h.amend hacc hr hpass

end

/-! ### The waiters and the holders of a resource end one after the other -/

/-- No slot becomes live between two states. -/
def NotLivelier (s t : State) : Prop := ∀ c i k, (t.slot c i).liveName = some k → (s.slot c i).liveName = some k

theorem State.endWait_notLivelier (s : State) (c : ClientId) (i : SlotId) (cause : EndCause) :
    NotLivelier s (s.endWait c i cause) := by
  intro d j k hk
  unfold State.endWait at hk
  split at hk
  · rw [State.slot_post, State.slot_setSlot] at hk
    split at hk
    · cases hk
    · exact hk
  · exact hk

theorem State.endHolding_notLivelier (s : State) (c : ClientId) (i : SlotId) (cause : EndCause) :
    NotLivelier s (s.endHolding c i cause) := by
  have hleft {n : Name} {m : Mode} {g : Gen} : NotLivelier s
      (((s.leaveHolders n c i).setSlot c i (.ended n m (some g) cause)).post c i .urgent) := fun d j k hk => by
    rw [State.slot_post, State.slot_setSlot] at hk
    split at hk
    · cases hk
    · exact hk
  have hend {n : Name} {m : Mode} {g : Gen} : NotLivelier s
      ((((s.leaveHolders n c i).setSlot c i (.ended n m (some g) cause)).post c i .urgent).holderEnd n) := fun d j k hk => by
    rw [State.slot_of_clients (State.clients_holderEnd _ n)] at hk
    exact hleft d j k hk
  cases hs : s.slot c i with
  | gating n m g => rw [State.endHolding_of_gating hs]; exact hleft
  | held n m g l => rw [State.endHolding_of_leased (by rw [hs]; rfl) (by rw [hs]; rfl)]; exact hend
  | recalled n m g l d => rw [State.endHolding_of_leased (by rw [hs]; rfl) (by rw [hs]; rfl)]; exact hend
  | free | waiting | ended => simp only [State.endHolding, hs]; exact fun _ _ _ => id

/-- A wait that ends, if the slot waits at all. -/
theorem AtWork.endWaitIf (h : AtWork full o (some n) s) (hs : ∀ k, (s.slot c i).liveName = some k → k = n) (cause : EndCause) :
    AtWork full o (some n) (s.endWait c i cause) := by
  cases hx : s.slot c i with
  | waiting k m w =>
    obtain rfl : k = n := hs k (by rw [hx]; rfl)
    exact h.endWait hx cause
  | free | gating | held | recalled | ended => simp only [State.endWait, hx]; exact h

/-- A holding slot that ends, if the slot holds at all. -/
theorem AtWork.endHoldingIf (h : AtWork full o (some n) s) (hs : ∀ k, (s.slot c i).liveName = some k → k = n) (cause : EndCause) :
    AtWork full o (some n) (s.endHolding c i cause) := by
  cases hx : (s.slot c i).holding with
  | some y =>
    obtain ⟨k, m, g⟩ := y
    obtain rfl : k = n := hs k (Slot.liveName_of_holding hx)
    exact h.endHolding hx cause
  | none =>
    have hno : s.endHolding c i cause = s := by
      cases hs : s.slot c i with
      | free | waiting | ended => simp only [State.endHolding, hs]
      | gating | held | recalled => rw [hs] at hx; cases hx
    rw [hno]
    exact h

theorem AtWork.retireWaiters (ws : List Waiter) : ∀ {s : State}, AtWork full o (some n) s →
    (∀ w ∈ ws, ∀ k, (s.slot w.client w.slot).liveName = some k → k = n) →
    AtWork full o (some n) (s.retireWaiters ws) ∧ NotLivelier s (s.retireWaiters ws) := by
  induction ws with
  | nil => exact fun h _ => ⟨h, fun _ _ _ => id⟩
  | cons w ws ih =>
    intro s h hs
    have hstep := s.endWait_notLivelier w.client w.slot .retired
    obtain ⟨hrest, hlive⟩ := ih (h.endWaitIf (hs w List.mem_cons_self) .retired)
      fun x hx k hk => hs x (List.mem_cons_of_mem w hx) k (hstep _ _ k hk)
    exact ⟨hrest, fun d j k hk => hstep d j k (hlive d j k hk)⟩

theorem AtWork.retireHolders (hs : List Holder) : ∀ {s : State}, AtWork full o (some n) s →
    (∀ x ∈ hs, ∀ k, (s.slot x.client x.slot).liveName = some k → k = n) →
    AtWork full o (some n) (s.retireHolders hs) ∧ NotLivelier s (s.retireHolders hs) := by
  induction hs with
  | nil => exact fun h _ => ⟨h, fun _ _ _ => id⟩
  | cons x hs ih =>
    intro s h hlisted
    have hstep := s.endHolding_notLivelier x.client x.slot .retired
    obtain ⟨hrest, hlive⟩ := ih (h.endHoldingIf (hlisted x List.mem_cons_self) .retired)
      fun y hy k hk => hlisted y (List.mem_cons_of_mem x hy) k (hstep _ _ k hk)
    exact ⟨hrest, fun d j k hk => hstep d j k (hlive d j k hk)⟩

/-- The slots of a record's entries name its resource (R29). -/
theorem Linked.live_of_waiter (h : Linked s) (hr : s.find n = some r) : ∀ w ∈ r.waiters, ∀ k,
    (s.slot w.client w.slot).liveName = some k → k = n := fun w hw _ hk =>
  Option.some.inj (hk.symm.trans (Slot.liveName_of_wait ((h.record n r hr).waiters w hw).1))

theorem Linked.live_of_holder (h : Linked s) (hr : s.find n = some r) : ∀ x ∈ r.holders, ∀ k,
    (s.slot x.client x.slot).liveName = some k → k = n := fun x hx _ hk =>
  Option.some.inj (hk.symm.trans (Slot.liveName_of_holding ((h.record n r hr).holders x hx)))

/-! ### RETIRE -/

/-- A settled record without holders has no waiters (R43, R45). -/
theorem Settled.no_waiters (h : Settled r) (hh : r.holders = []) (hlimit : 1 ≤ r.shareLimit) : r.waiters = [] := by
  cases hw : r.waiters with
  | nil => rfl
  | cons w ws =>
    have hstuck := h.1 w (by rw [hw]; rfl)
    have hc : r.compatible w.mode = true := by
      cases w.mode with
      | exclusive => exact (Record.compatible_exclusive_iff r).mpr hh
      | shared =>
        refine (Record.compatible_shared_iff r).mpr ?_
        rw [hh]
        exact ⟨nofun, hlimit⟩
    cases hstuck.symm.trans hc

/-- The waiters have ended and the record drains (R13). -/
theorem AtWork.drained (h : AtWork full o none s) (hr : s.find n = some r) : AtWork full o (some n) (s.drained n r) := by
  obtain ⟨hended, -⟩ := AtWork.retireWaiters r.waiters (h.begin n) (h.linked.live_of_waiter hr)
  have hworks : Works n (s.retireWaiters r.waiters) (s.drained n r) := .update (fun _ => rfl) fun _ => rfl
  exact hended.work hworks (h.linked.drained hr) (fun _ hm _ => hm.same rfl) fun _ hg =>
    hg.rewrite hended.linked hworks.toTouches (h.linked.retireWaiters_all hr) (State.find_drained h.linked hr) rfl rfl rfl
      fun _ _ => rfl

theorem AtWork.retireGracefully (h : AtWork full o none s) (hr : s.find n = some r) :
    AtWork full o none (s.retireGracefully r).1 := by
  unfold State.retireGracefully
  obtain rfl := State.find_name hr
  split
  · exact h
  · split
    · next hh =>
      refine (h.begin r.name).removeRecord fun q hq => ?_
      cases hr.symm.trans hq
      exact ⟨hh, (h.settled _ _ nofun hr).no_waiters hh (h.linked.record _ _ hr).fields.2.2.1⟩
    · next hh =>
      refine (h.drained hr).evalRecall fun q hq => ?_
      cases (State.find_drained h.linked hr).symm.trans hq
      exact ⟨nofun, fun _ => hh⟩

/-- After an immediate RETIRE has ended every holder and every waiter no slot names the resource (R16). -/
theorem Linked.not_live_of_retired (h : Linked s) (hr : s.find n = some r)
    (hlive : NotLivelier s ((s.retireHolders r.holders).retireWaiters r.waiters)) (c : ClientId) (i : SlotId) :
    (((s.retireHolders r.holders).retireWaiters r.waiters).slot c i).liveName ≠ some n := by
  intro hk
  obtain ⟨hended, -⟩ := endedAt_retireAll h hr
  obtain ⟨m, hw⟩ | ⟨m, g, hh⟩ := Slot.wait_or_holding_of_live (hlive c i n hk)
  · obtain ⟨q, hq, hmem⟩ := h.waiting c i n m hw
    cases hr.symm.trans hq
    have hend := (hended.ended _ (List.mem_append_right _ (List.mem_map_of_mem hmem))).1
    rw [show ((s.retireHolders r.holders).retireWaiters r.waiters).slot c i = _ from hend] at hk
    cases hk
  · obtain ⟨q, hq, hmem⟩ := h.holding c i n m g hh
    cases hr.symm.trans hq
    have hend := (hended.ended _ (List.mem_append_left _ (List.mem_map_of_mem hmem))).1
    rw [show ((s.retireHolders r.holders).retireWaiters r.waiters).slot c i = _ from hend] at hk
    cases hk

theorem AtWork.retireAtOnce (h : AtWork full o none s) (hr : s.find n = some r) : AtWork full o none (s.retireAtOnce r).1 := by
  obtain ⟨hheld, hstep⟩ := AtWork.retireHolders r.holders (h.begin n) (h.linked.live_of_holder hr)
  obtain ⟨hended, hrest⟩ := AtWork.retireWaiters r.waiters hheld fun w hw k hk =>
    h.linked.live_of_waiter hr w hw k (hstep _ _ k hk)
  have hnone := h.linked.not_live_of_retired hr fun c i k hk => hstep c i k (hrest c i k hk)
  unfold State.retireAtOnce
  obtain rfl := State.find_name hr
  refine hended.removeRecord fun q hq => ?_
  have hbacked := hended.linked.record _ q hq
  exact ⟨List.eq_nil_iff_forall_not_mem.mpr fun x hx => hnone _ _ (Slot.liveName_of_holding (hbacked.holders x hx)),
    List.eq_nil_iff_forall_not_mem.mpr fun w hw => hnone _ _ (Slot.liveName_of_wait (hbacked.waiters w hw).1)⟩

theorem AtWork.carryRetire (h : AtWork full o none s) (c : ClientId) (n : Name) (mode : Byte) :
    AtWork full o none (carryRetire c n mode s).1 := by
  unfold Machine.carryRetire
  split
  · exact h
  · split
    · exact h
    · split
      · exact h
      · next r hr =>
        split
        · exact h.retireGracefully hr
        · exact h.retireAtOnce hr

end

end Sys2Proof.Machine
end

section
/-! PROOFS. DEFINE keeps the laws of a state at work (R7, R8). -/

namespace Sys2Proof.Machine

open Sys2Proof.Claims Sys2Proof.Safety

section

variable {s t : State} {n : Name} {r q : Record} {c : ClientId} {i : SlotId} {full : Prop} {o : Option ClientId}

/-! ### A record put in the directory -/

/-- Between two states a record has been put in the directory, with its channel bound (R8). -/
structure Inserted (s t : State) (q : Record) : Prop where
  absent : s.find q.name = none
  records : t.records = insertRecord q s.records
  clients : t.clients = s.clients
  other : ∀ g, q.gate ≠ some g → t.channel g = s.channel g
  unbound : ∀ g, q.gate = some g → (s.channel g).binding = none
  bound : ∀ g, q.gate = some g → ∃ dead, deadTimeInRange dead = true ∧
    t.channel g = { binding := some q.name, deadTime := some dead, state := .disconnected }
  holders : q.holders = []
  waiters : q.waiters = []
  active : q.state = .active
  fields : FieldsLawful q

section

variable (k : Inserted s t q) (h : Linked s)
include k

theorem Inserted.split (hasc : s.records.Pairwise fun a b => a.name.toNat < b.name.toNat) : ∃ pre post,
    s.records = pre ++ post ∧ (∀ x ∈ pre, x.name.toNat < q.name.toNat) ∧ (∀ x ∈ post, q.name.toNat < x.name.toNat) ∧
      t.records = pre ++ q :: post := by
  obtain ⟨pre, post, hsplit, hpre, hpost, hins⟩ := insertRecord_split q.name s.records hasc (State.name_ne_of_find_none k.absent)
  exact ⟨pre, post, hsplit, hpre, hpost, k.records.trans (hins q rfl)⟩

include h

theorem Inserted.ascending : t.records.Pairwise fun a b => a.name.toNat < b.name.toNat := by
  obtain ⟨pre, post, hsplit, hpre, hpost, hrec⟩ := k.split h.ascending
  have hasc := h.ascending
  rw [hsplit] at hasc
  obtain ⟨hp, hq, hpq⟩ := List.pairwise_append.mp hasc
  rw [hrec]
  refine List.pairwise_append.mpr ⟨hp, List.pairwise_cons.mpr ⟨hpost, hq⟩, fun x hx y hy => ?_⟩
  obtain rfl | hy := List.mem_cons.mp hy
  · exact hpre x hx
  · exact hpq x hx y hy

theorem Inserted.mem (x : Record) : x ∈ t.records ↔ x = q ∨ x ∈ s.records := by
  obtain ⟨pre, post, hsplit, -, -, hrec⟩ := k.split h.ascending
  rw [hrec, hsplit]
  simp only [List.mem_append, List.mem_cons]
  tauto

theorem Inserted.find (a : Name) : t.find a = if a = q.name then some q else s.find a := by
  have hmem := k.mem h
  split
  · next e =>
    subst e
    exact State.find_of_mem (k.ascending h) ((hmem q).mpr (.inl rfl))
  · next e =>
    cases ha : s.find a with
    | some x =>
      obtain rfl := State.find_name ha
      exact State.find_of_mem (k.ascending h) ((hmem x).mpr (.inr (State.mem_of_find ha)))
    | none =>
      refine Option.eq_none_iff_forall_ne_some.mpr fun x hx => ?_
      obtain rfl | hin := (hmem x).mp (State.mem_of_find hx)
      · exact e (State.find_name hx).symm
      · exact State.name_ne_of_find_none ha x hin (State.find_name hx)

theorem Inserted.find_self : t.find q.name = some q := by rw [k.find h, if_pos rfl]

/-- The records that were there are found as before. -/
theorem Inserted.find_old {a : Name} (ha : s.find a = some r) : t.find a = some r := by
  rw [k.find h, if_neg, ha]
  rintro rfl
  cases k.absent.symm.trans ha

/-- A record that is found is the new one, or was there. -/
theorem Inserted.old_or_new {a : Name} (ha : t.find a = some r) : a = q.name ∧ r = q ∨ s.find a = some r := by
  rw [k.find h] at ha
  split at ha
  · next e => cases ha; exact .inl ⟨e, rfl⟩
  · exact .inr ha

/-- No slot names the resource that is created (R29). -/
theorem Inserted.not_live (c : ClientId) (i : SlotId) : (s.slot c i).liveName ≠ some q.name := by
  intro hlive
  obtain ⟨m, hw⟩ | ⟨m, g, hh⟩ := Slot.wait_or_holding_of_live hlive
  · obtain ⟨x, hx, -⟩ := h.waiting c i q.name m hw
    cases k.absent.symm.trans hx
  · obtain ⟨x, hx, -⟩ := h.holding c i q.name m g hh
    cases k.absent.symm.trans hx

/-! ### The laws -/

theorem Inserted.linked (hroom : s.records.length < Config.directoryCapacity) : Linked t := by
  have hslot := State.slot_of_clients k.clients
  have hclient := State.client_of_clients k.clients
  refine ⟨k.ascending h, ?_, fun a x hx => ?_, fun c i a m hx => ?_, fun c i a m g hx => ?_⟩
  · obtain ⟨pre, post, hsplit, -, -, hrec⟩ := k.split h.ascending
    have hlen : t.records.length = s.records.length + 1 := by
      rw [hrec, hsplit]
      simp [Nat.add_assoc]
    rw [hlen]
    exact hroom
  · obtain ⟨rfl, rfl⟩ | hold := k.old_or_new h hx
    · have hno : x.holders = [] ∧ x.waiters = [] := ⟨k.holders, k.waiters⟩
      obtain ⟨hh, hw⟩ := hno
      refine ⟨k.fields, ⟨by rw [hh]; exact Nat.zero_le _, by rw [hh]; nofun⟩, by rw [QueueOrdered, hw]; exact .nil, fun _ => hw,
        by rw [hw]; nofun, by rw [hh]; nofun, by rw [hw]; exact .nil, by rw [hh]; exact .nil⟩
    · have hy := h.record a x hold
      exact { hy with
        waiters := fun w hw => by rw [hslot, hclient]; exact hy.waiters w hw
        holders := fun x hx => by rw [hslot]; exact hy.holders x hx }
  · rw [hslot] at hx
    obtain ⟨x, ha, hmem⟩ := h.waiting c i a m hx
    exact ⟨x, k.find_old h ha, by rw [hclient]; exact hmem⟩
  · rw [hslot] at hx
    obtain ⟨x, ha, hmem⟩ := h.holding c i a m g hx
    exact ⟨x, k.find_old h ha, hmem⟩

theorem Inserted.ranksLawful (hl : RanksLawful s) : RanksLawful t := by
  have hslot := State.slot_of_clients k.clients
  refine RanksLawful.mono (fun c i a ha => hslot c i ▸ ha) (fun c i hw => hslot c i ▸ hw) (fun c i x hx hlive => ?_) hl
  obtain rfl | hx := (k.mem h x).mp hx
  · rw [hslot] at hlive
    exact absurd hlive (k.not_live h c i)
  · exact ⟨x, hx, rfl, rfl⟩

/-- The channel of the new record is DISCONNECTED, and no other record is bound to it (R7, check 4; R90). -/
theorem Inserted.gateLaws (hg : GateLaws s) : GateLaws t := by
  have hslot := State.slot_of_clients k.clients
  have hclient := State.client_of_clients k.clients
  refine ⟨fun g a hb => ?_, fun a x hx => ?_, fun g b hb => ?_, fun g hb => ?_⟩
  · by_cases hq : q.gate = some g
    · obtain ⟨dead, -, hchan⟩ := k.bound g hq
      rw [hchan] at hb
      cases hb
      exact ⟨q, k.find_self h, hq⟩
    · rw [k.other g hq] at hb
      obtain ⟨x, hx, hxg⟩ := hg.bound g a hb
      exact ⟨x, k.find_old h hx, hxg⟩
  · obtain ⟨rfl, rfl⟩ | hold := k.old_or_new h hx
    · refine ⟨fun g hq => ?_, fun g b hq => iff_of_false ?_ ?_, fun y hy => ?_⟩
      · obtain ⟨dead, -, hchan⟩ := k.bound g hq
        rw [hchan]
      · obtain ⟨dead, -, hchan⟩ := k.bound g hq
        rw [hchan]
        nofun
      · rintro ⟨y, hy, -⟩
        rw [k.holders] at hy
        cases hy
      · rw [k.holders] at hy
        cases hy
    · refine (hg.record a x hold).congr rfl rfl (fun y _ => by rw [hslot, hclient]; exact ⟨rfl, rfl, rfl⟩) fun g hxg => ?_
      refine k.other g fun hq => ?_
      cases (k.unbound g hq).symm.trans ((hg.record a x hold).binding g hxg)
  · by_cases hq : q.gate = some g
    · obtain ⟨dead, -, hchan⟩ := k.bound g hq
      rw [hchan] at hb
      cases hb
    · rw [k.other g hq] at hb ⊢
      exact hg.unbound g b hb
  · by_cases hq : q.gate = some g
    · obtain ⟨dead, hdead, hchan⟩ := k.bound g hq
      rw [hchan]
      exact hdead
    · rw [k.other g hq] at hb ⊢
      exact hg.deadTime g hb

end

theorem AtWork.inserted (h : AtWork full o none s) (k : Inserted s t q) (hroom : s.records.length < Config.directoryCapacity) :
    AtWork full o none t where
  linked := k.linked h.linked hroom
  marks d hd := (h.marks d hd).same k.clients
  settled a x _ hx := by
    obtain ⟨rfl, rfl⟩ | hold := k.old_or_new h.linked hx
    · refine ⟨fun w hw => ?_, fun hd => ?_⟩
      · rw [k.waiters] at hw
        cases hw
      · rw [k.active] at hd
        cases hd
    · exact h.settled a x nofun hold
  ranks hf := k.ranksLawful h.linked (h.ranks hf)
  gates hf := k.gateLaws h.linked (h.gates hf)
  recalls hf a x _ hx y hy hrec := by
    obtain ⟨rfl, rfl⟩ | hold := k.old_or_new h.linked hx
    · rw [k.holders] at hy
      cases hy
    · rw [State.slot_of_clients k.clients] at hrec
      rw [State.client_of_clients k.clients]
      exact h.recalls hf a x nofun hold y hy hrec

/-! ### DEFINE -/

/-- The gate of an accepted DEFINE has its dead time in range, and the resource one holder at most (R7, check 1; R90). -/
theorem gateRequested_some {d : DefineParams} {g : ChannelId} {dead : Half} (h : gateRequested d = some (some (g, dead))) :
    deadTimeInRange dead = true ∧ d.shareLimit = 1#8 := by
  unfold gateRequested at h
  split at h
  · cases h
  · split at h
    · split at h
      · split at h
        · next hrange =>
          obtain ⟨hlow, hhigh, hone⟩ := hrange
          obtain ⟨-, rfl⟩ := Prod.mk.inj (Option.some.inj (Option.some.inj h))
          exact ⟨by simp [deadTimeInRange, hlow, hhigh], hone⟩
        · cases h
      · cases h
    · cases h

/-- The record that an accepted DEFINE creates has lawful fields (R7, check 1). -/
theorem definedRecord_lawful {d : DefineParams} {rank : Fin 16} {gate : Option (ChannelId × Half)}
    (hacc : defineAccepted d = some (rank, gate)) : FieldsLawful (definedRecord d rank (gate.map (·.1))) := by
  have hparams := mt (defineAccepted_eq_none_iff d).mpr (by rw [hacc]; nofun)
  simp only [not_or, not_lt] at hparams
  obtain ⟨hname, -, hzero, hmax, hlease, -⟩ := hparams
  have hpos : d.shareLimit.toNat ≠ 0 := fun e => hzero (BitVec.eq_of_toNat_eq e)
  refine ⟨hname, hlease, Nat.one_le_iff_ne_zero.mpr hpos, hmax, fun hg => ?_⟩
  obtain ⟨-, hgate⟩ := defineAccepted_eq_some hacc
  cases gate with
  | none => cases hg
  | some x =>
    have hone := (gateRequested_some hgate).2
    show d.shareLimit.toNat = 1
    rw [hone]
    rfl

theorem AtWork.carryDefine (h : AtWork full o none s) (c : ClientId) (d : DefineParams) :
    AtWork full o none (carryDefine c d s).1 := by
  unfold Machine.carryDefine
  split
  · exact h
  · split
    · exact h
    · next rank gate hacc =>
      have hfields := definedRecord_lawful hacc
      obtain ⟨-, hgate⟩ := defineAccepted_eq_some hacc
      split
      · exact h
      · next hfound =>
        have habsent : s.find d.name = none := Option.not_isSome_iff_eq_none.mp hfound
        split
        · exact h
        · next hroom =>
          cases gate with
          | none =>
            exact h.inserted (t := s.addRecord (definedRecord d rank none)) (q := definedRecord d rank none)
              ⟨habsent, rfl, rfl, fun _ _ => rfl, nofun, nofun, rfl, rfl, rfl, hfields⟩ (not_le.mp hroom)
          | some x =>
            obtain ⟨g, dead⟩ := x
            dsimp only
            split
            · exact h
            · next hfree =>
              obtain ⟨hbinding, hstate⟩ := not_or.mp (mt (Channel.busy_iff (s.channel g)).mpr hfree)
              refine h.inserted (t := (s.addRecord (definedRecord d rank (some g))).bind g d.name dead)
                (q := definedRecord d rank (some g)) ⟨habsent, rfl, rfl, fun k hk => ?_, fun k hk => ?_,
                fun k hk => ?_, rfl, rfl, rfl, hfields⟩ (not_le.mp hroom)
              · exact (State.channel_setChannel _ g k _).trans (if_neg fun e => hk (congrArg some e))
              · obtain rfl := Option.some.inj hk
                exact not_not.mp hbinding
              · obtain rfl := Option.some.inj hk
                refine ⟨dead, (gateRequested_some hgate).1, ?_⟩
                rw [← not_not.mp hstate]
                exact (State.channel_setChannel _ g g _).trans (if_pos rfl)

end

end Sys2Proof.Machine
end

section
/-! PROOFS. The settle end, and OPEN, TAKEOVER and CLOSE, keep the laws of a state at work; and so does every step. -/

namespace Sys2Proof.Machine

open Sys2Proof.Claims Sys2Proof.Safety

section

variable {s t : State} {n : Name} {r : Record} {c : ClientId} {i : SlotId} {g : ChannelId} {full : Prop} {o : Option ClientId}

/-! ### A channel that settles -/

/-- A SETTLING channel counts on, or settles without a GATING holder (R93 to R95). -/
theorem GateLaws.setChannel {x : Channel} {e : Nat} (h : GateLaws s) (hset : (s.channel g).state = .settling e)
    (hbind : x.binding = (s.channel g).binding) (hnot : ∀ b, x.state ≠ .connected b)
    (hgating : x.isSettling = true ∨ ∀ n r, (s.channel g).binding = some n → s.find n = some r → ∀ y ∈ r.holders,
      (s.slot y.client y.slot).isGating = false)
    (hdead : x.binding.isSome = true ∨ x.isSettling = true → x.deadTime = (s.channel g).deadTime) :
    GateLaws (s.setChannel g x) := by
  have hchan := fun k => s.channel_setChannel g k x
  refine ⟨fun k a hb => ?_, fun a y hy => ⟨fun k hk => ?_, fun k b hk => ?_, fun z hz hgz => ?_⟩, fun k b hb => ?_, fun k hk => ?_⟩
  · refine h.bound k a ?_
    rw [hchan] at hb
    split at hb
    · next e => subst e; exact hbind.symm.trans hb
    · exact hb
  · have hold := (h.record a y hy).binding k hk
    rw [hchan]
    split
    · next e => subst e; exact hbind.trans hold
    · exact hold
  · have hold := (h.record a y hy).connected k b hk
    rw [hchan]
    split
    · next e =>
      subst e
      refine iff_of_false (hnot b) fun hl => ?_
      have hconn := hold.mpr hl
      rw [hset] at hconn
      cases hconn
    · exact hold
  · obtain ⟨k, hk, hs⟩ := (h.record a y hy).gating z hz hgz
    refine ⟨k, hk, ?_⟩
    rw [hchan]
    split
    · next e =>
      subst e
      refine hgating.resolve_right fun hno => ?_
      have hfalse := hno a y ((h.record a y hy).binding g hk) hy z hz
      exact Bool.false_ne_true (hfalse.symm.trans hgz)
    · exact hs
  · rw [hchan] at hb ⊢
    split
    · exact hnot b
    · next e =>
      rw [if_neg e] at hb
      exact h.unbound k b hb
  · rw [hchan] at hk ⊢
    split
    · next e =>
      rw [if_pos e] at hk
      rw [hdead hk]
      exact h.deadTime g (.inr (by unfold Channel.isSettling; rw [hset]))
    · next e =>
      rw [if_neg e] at hk
      exact h.deadTime k hk

theorem AtWork.setChannel {x : Channel} {e : Nat} (h : AtWork full o none s) (hset : (s.channel g).state = .settling e)
    (hbind : x.binding = (s.channel g).binding) (hnot : ∀ b, x.state ≠ .connected b)
    (hgating : x.isSettling = true ∨ ∀ n r, (s.channel g).binding = some n → s.find n = some r → ∀ y ∈ r.holders,
      (s.slot y.client y.slot).isGating = false)
    (hdead : x.binding.isSome = true ∨ x.isSettling = true → x.deadTime = (s.channel g).deadTime) :
    AtWork full o none (s.setChannel g x) where
  linked := Linked.same (s := s) h.linked rfl (fun _ _ => rfl) (.of_clients rfl)
  marks d hd := (h.marks d hd).same rfl
  settled := h.settled
  ranks hf := h.ranks hf
  gates hf := (h.gates hf).setChannel hset hbind hnot hgating hdead
  recalls hf := h.recalls hf

/-! ### A settle end that finds a GATING holder -/

section

variable {x : Holder} {l : Deadline}

/-- The channel is connected to the branch of the GATING holder, whose slot becomes HELD and is posted (R94). -/
def State.connected (s : State) (g : ChannelId) (n : Name) (x : Holder) (l : Deadline) : State :=
  ((s.connect g (s.client x.client).branch).setSlot x.client x.slot (.held n x.mode x.generation l)).post x.client x.slot .ordinary

theorem State.written_connected (s : State) (g : ChannelId) (n : Name) (x : Holder) (l : Deadline) :
    Written s (s.connected g n x l) x.client x.slot (.held n x.mode x.generation l) := by
  have hset : Written s ((s.connect g (s.client x.client).branch).setSlot x.client x.slot (.held n x.mode x.generation l)) x.client
      x.slot (.held n x.mode x.generation l) :=
    Written.of_clients ((s.connect g (s.client x.client).branch).written_setSlot x.client x.slot _) rfl
  exact hset.post rfl

theorem State.connected_contextsKept (s : State) (g : ChannelId) (n : Name) (x : Holder) (l : Deadline) :
    ContextsKept s (s.connected g n x l) := by
  have hconnect : ContextsKept s (s.connect g (s.client x.client).branch) := .of_clients rfl
  exact hconnect.trans (.trans (State.setSlot_recallKept _ x.client x.slot _).client
    (State.post_recallKept _ x.client x.slot .ordinary).client)

theorem State.queue_connected (s : State) (g : ChannelId) (n : Name) (x : Holder) (l : Deadline) :
    ((s.connected g n x l).client x.client).queue = postEntry x.slot .ordinary (s.client x.client).queue := by
  rw [State.connected, State.queue_post, State.queue_setSlot]
  rfl

theorem Touches.connected (hs : (s.slot x.client x.slot).holding = some (n, x.mode, x.generation)) :
    Touches n s (s.connected g n x l) where
  find _ _ := rfl
  slot d j k hk hlive := by
    rw [(s.written_connected g n x l).slot, if_neg]
    rintro ⟨rfl, rfl⟩
    exact hk (Option.some.inj (hlive.symm.trans (Slot.liveName_of_holding hs)))
  contexts := s.connected_contextsKept g n x l

theorem GateLaws.connected (h : GateLaws s) (hl : Linked s) (hr : s.find n = some r) (hx : x ∈ r.holders)
    (hb : (s.channel g).binding = some n) : GateLaws (s.connected g n x l) := by
  have hw := s.written_connected g n x l
  have hhold := (hl.record n r hr).holders x hx
  obtain ⟨q, hq, hgate⟩ := h.bound g n hb
  cases hr.symm.trans hq
  have hone {y : Holder} (hy : y ∈ r.holders) : y = x := hl.gated_holder hr (hgate ▸ rfl) hy hx
  have hslot : (s.connected g n x l).slot x.client x.slot = .held n x.mode x.generation l := by
    rw [hw.slot, if_pos ⟨rfl, rfl⟩]
  have hbranch := ContextsKept.branch (s.connected_contextsKept g n x l) x.client
  have hchan (k : ChannelId) : (s.connected g n x l).channel k =
      if g = k then { s.channel g with state := .connected (s.client x.client).branch } else s.channel k :=
    s.channel_setChannel g k _
  refine h.touch hl (.connected hhold) hr hr rfl (fun k hk => ?_) (fun k _ => ?_) ⟨fun k hk => ?_, fun k b hk => ?_,
    fun y hy hgating => ?_⟩
  · rw [hchan, if_neg]
    rintro rfl
    exact hk hgate
  · rw [hchan]
    split
    · next e => subst e; rfl
    · rfl
  · obtain rfl := Option.some.inj (hgate.symm.trans hk)
    rw [hchan, if_pos rfl]
    exact hb
  · obtain rfl := Option.some.inj (hgate.symm.trans hk)
    rw [hchan, if_pos rfl]
    constructor
    · intro e
      exact ⟨x, hx, by rw [hslot]; rfl, hbranch.trans (GateState.connected.inj e)⟩
    · rintro ⟨y, hy, -, rfl⟩
      obtain rfl := hone hy
      exact congrArg GateState.connected hbranch.symm
  · obtain rfl := hone hy
    rw [hslot] at hgating
    cases hgating

theorem AtWork.connected (h : AtWork full o none s) (hr : s.find n = some r) (hx : x ∈ r.holders)
    (hb : (s.channel g).binding = some n) : AtWork full o (some n) (s.connected g n x l) := by
  have hw := s.written_connected g n x l
  have hhold := (h.linked.record n r hr).holders x hx
  have hctx := s.connected_contextsKept g n x l
  have hsame (d : ClientId) (j : SlotId) : ((s.connected g n x l).slot d j).wait = (s.slot d j).wait ∧
      ((s.connected g n x l).slot d j).holding = (s.slot d j).holding ∧
      ((s.connected g n x l).slot d j).liveName = (s.slot d j).liveName := by
    rw [hw.slot]
    split
    · next e =>
      obtain ⟨rfl, rfl⟩ := e
      exact ⟨(Slot.wait_of_holding hhold).symm, hhold.symm, (Slot.liveName_of_holding hhold).symm⟩
    · exact ⟨rfl, rfl, rfl⟩
  have hwaiting (d : ClientId) (j : SlotId) (hj : ((s.connected g n x l).slot d j).isWaiting = true) :
      (s.slot d j).isWaiting = true := by
    rw [hw.slot] at hj
    split at hj
    · cases hj
    · exact hj
  refine (h.begin n).touch (.connected hhold)
    (Linked.congr (s := s) rfl (fun d j => (hsame d j).1) (fun d j => (hsame d j).2.1)
      (fun d _ _ => ContextsKept.priority hctx d) h.linked)
    (fun d hm _ => ?_) (fun _ hl => RanksLawful.mono (fun d j k hk => (hsame d j).2.2 ▸ hk) hwaiting
      (fun _ _ y hy _ => ⟨y, hy, rfl, rfl⟩) hl) fun _ hg => hg.connected h.linked hr hx hb
  by_cases hd : x.client = d
  · subst hd
    exact hw.posted (k := .ordinary) hm (hm.not_closed (Slot.ne_free_of_holding hhold)) (s.queue_connected g n x l) (.inl rfl)
  · exact hw.other hd hm

end

theorem AtWork.settleEnds {e : Nat} (h : AtWork full o none s) (hset : (s.channel g).state = .settling e) :
    AtWork full o none (s.settleEnds g) := by
  unfold State.settleEnds
  cases hb : (s.channel g).binding with
  | none =>
    refine h.setChannel hset rfl nofun (.inr fun n r hn => ?_) fun hno => ?_
    · rw [hb] at hn; cases hn
    · have hsome : (s.channel g).binding.isSome = true := hno.resolve_right nofun
      rw [hb] at hsome
      cases hsome
  | some n =>
    dsimp only
    unfold State.settleBound
    cases hfound : (s.find n).bind s.gatingHolder with
    | none =>
      refine h.setChannel hset rfl nofun (.inr fun k r hk hr y hy => ?_) fun _ => rfl
      cases hb.symm.trans hk
      rw [hr] at hfound
      exact Bool.eq_false_iff.mpr (List.find?_eq_none.mp hfound y hy)
    | some x =>
      obtain ⟨r, hr, hfind⟩ := Option.bind_eq_some_iff.mp hfound
      have hx : x ∈ r.holders := List.mem_of_find?_eq_some hfind
      have hgating : (s.slot x.client x.slot).isGating = true :=
        List.find?_some (p := fun y : Holder => (s.slot y.client y.slot).isGating) hfind
      have hhold := (h.linked.record n r hr).holders x hx
      cases hslot : s.slot x.client x.slot with
      | gating a m gen =>
        rw [hslot] at hhold
        obtain ⟨rfl, rfl, rfl⟩ : n = a ∧ m = x.mode ∧ gen = x.generation := by
          cases hhold
          exact ⟨rfl, rfl, rfl⟩
        simp only [hslot]
        exact (h.connected (l := s.after (s.termMs n)) hr hx hb).evalRecall fun q hq => h.settled n q nofun hq
      | free | waiting | held | recalled | ended => rw [hslot] at hgating; cases hgating

/-! ### OPEN, TAKEOVER and CLOSE -/

theorem AtWork.except (h : AtWork full none none s) (c : ClientId) : AtWork full (some c) none s :=
  { h with marks := fun d _ => h.marks d nofun }

/-- A CLOSED client is opened: it has no slot in use and no change (R20, R23). -/
theorem AtWork.openClosed {y : Client} (h : AtWork full none none s) (hc : (s.client c).state = .closed)
    (hslots : y.slots = (s.client c).slots) (hqueue : y.queue = (s.client c).queue) :
    AtWork full none none (s.setClient c y) := by
  obtain ⟨hempty, hfree⟩ := (h.marks c nofun).closed hc
  refine (h.except c).setIdle (fun i => by rw [hfree i]; rfl) (fun i => ?_) (hqueue.trans hempty)
  rw [hslots]
  exact hfree i

/-- Every slot of a client is freed, and its context rewritten (R25, R26). -/
theorem AtWork.freeAll {y : Client} (h : AtWork full none none s) (hslots : y.slots = ((s.freeAll c).client c).slots)
    (hqueue : y.queue = ((s.freeAll c).client c).queue) : AtWork full none none ((s.freeAll c).setClient c y) := by
  obtain ⟨hfreed, -, hidle⟩ := (h.except c).freeSlots allSlots
  rw [State.client_freeAll] at hslots hqueue
  rw [s.freeAll_eq, State.setClient_setClient]
  refine hfreed.setIdle (fun i => hidle i (mem_allSlots i)) (fun i => ?_) hqueue
  rw [hslots]
  exact Vector.getElem_replicate (n := 8) i.isLt

/-! ### Every request -/

theorem AtWork.carrySeed (h : AtWork full o none s) (c : ClientId) (value : Gen) :
    AtWork full o none (carrySeed c value s).1 := by
  unfold Machine.carrySeed
  split
  · exact h
  · split
    · exact h
    · split
      · exact h
      · exact h.same rfl rfl rfl

theorem AtWork.carryNew (h : AtWork full none none s) (p : Port) (c : ClientId) (body : Body)
    (hopen : bodyKind body ≠ .openClient) (hclose : bodyKind body ≠ .close) (hacquire : bodyKind body ≠ .acquire) :
    AtWork full none none (carryNew p c body s).1 := by
  cases body with
  | openClient => exact absurd rfl hopen
  | close => exact absurd rfl hclose
  | acquire => exact absurd rfl hacquire
  | release slot => exact h.carryRelease c slot
  | cancel slot => exact h.carryCancel c slot
  | renew slot => exact h.carryRenew c slot
  | renewAll => exact h.carryRenewAll c
  | fetch => exact h.carryFetch c
  | slotRead slot =>
    show AtWork full none none (carrySlotRead c slot s).1
    unfold carrySlotRead
    split <;> exact h
  | check n g =>
    show AtWork full none none (carryCheck n g s).1
    unfold carryCheck
    repeat' split
    all_goals exact h
  | query n =>
    show AtWork full none none (carryQuery n s).1
    unfold carryQuery
    repeat' split
    all_goals exact h
  | directory start => exact h
  | define d => exact h.carryDefine c d
  | amend a => exact h.carryAmend c a
  | retire n mode => exact h.carryRetire c n mode
  | seed value => exact h.carrySeed c value

theorem AtWork.reset : AtWork full none none State.reset := by
  have h : AtWork True none none State.reset :=
    atWork_true_iff.mpr ⟨listsAgree_reset, ranksLawful_reset, gatesLawful_reset, nofun⟩
  exact ⟨h.linked, h.marks, h.settled, fun _ => h.ranks trivial, fun _ => h.gates trivial, fun _ => h.recalls trivial⟩

end

/-- The laws of a state at work withstand every command. -/
theorem atWork_tableLaw (full : Prop) : TableLaw True (AtWork full none none) where
  same hrec hclients hchan _ h := h.same hrec hclients hchan
  reset := .reset
  cache _ _ h := h.setContext rfl rfl rfl rfl id
  opened _ _ _ _ _ _ hc h := h.openClosed (hc trivial) rfl rfl
  takenOver {s} c _ _ _ _ _ h := by
    have hfreed {y : Client} := h.freeAll (c := c) (y := y)
    generalize s.freeAll c = u at hfreed ⊢
    exact hfreed rfl rfl
  closed {s} c h := by
    have hfreed {y : Client} := h.freeAll (c := c) (y := y)
    generalize s.freeAll c = u at hfreed ⊢
    exact hfreed rfl rfl
  acquired _ n mode limit hc h := h.carryAcquire n mode limit (hc trivial)
  other p c body hopen hclose hacquire h := h.carryNew p c body hopen hclose hacquire
  fault p c h := h.faultClient p c
  reopened p c h := h.reopen p c
  waitDeadline c i h := h.waitDeadline c i
  expired c i h := h.expire c i
  revoked c i h := h.revoke c i
  settling _ _ _ hset h := h.setChannel hset rfl nofun (.inl rfl) fun _ => rfl
  settled _ _ hset h := h.settleEnds hset
  ticked now h := h.clockAt now

/-- Settles O58: each operation works on one resource, and the follow-up or recall evaluation at its end settles the resource. -/
theorem stepKeepsSlotsAndListsInAgreement : Obligations.StepKeepsSlotsAndListsInAgreement := fun _ _ hagree hscreened he =>
  atWork_false_iff.mp ((atWork_tableLaw False).step (fun _ => hscreened) (atWork_false_iff.mpr hagree) he)

/-- Settles O59, from the laws of the tables, of the waits, of the generations, and of the ports and their clients. -/
theorem stepKeepsEveryLaw : Obligations.StepKeepsEveryLaw := by
  intro s t h he
  obtain ⟨hagree, hports, hclients, hwaits, hdistinct, hcounter, hranks, hgates, hrecalls, hscreened⟩ := h
  have htables := (atWork_tableLaw True).step (fun _ => hscreened) (atWork_true_iff.mpr ⟨hagree, hranks, hgates, hrecalls⟩) he
  obtain ⟨hagree', hranks', hgates', hrecalls'⟩ := atWork_true_iff.mp htables
  have hwaits' := waitsLawful_tableLaw.step (fun _ => hscreened) hwaits he
  obtain ⟨hdistinct', hcounter'⟩ := generationLaws_tableLaw.step False.elim ⟨hdistinct, hcounter⟩ he
  obtain ⟨hports', hclients', hscreened'⟩ := LinkLaws.step ⟨hports, hclients, hscreened⟩ he
  exact ⟨hagree', hports', hclients', hwaits', hdistinct', hcounter', hranks', hgates', hrecalls', hscreened'⟩

end Sys2Proof.Machine
end
